-- ==== Sys2Proof/Word.lean ====
section
/-! DEFINITION. The word types of the CHIP-8 core: bytes, 16-bit words, register and key indices. -/

namespace Sys2Proof

/-- An 8-bit unsigned value: a general register, a timer, a byte of memory (R10, R16, R20). -/
abbrev Byte := BitVec 8

/-- A 16-bit value: `I`, `PC`, a return address, an instruction word (R13, R14, R15, R50). -/
abbrev Word := BitVec 16

/-- The index of a general register, `V0` to `VF` (R10). -/
abbrev Reg := Fin 16

/-- The index of a key, 0x0 to 0xF (R18, R144). -/
abbrev KeyIndex := Fin 16

/-- `VF`, the general register that is also the one flag (R11). -/
abbrev vf : Reg := 15

end Sys2Proof
end

