-- ==== Sys2Proof/Config.lean ====
section
/-! DEFINITION. What is fixed about a machine (00_scope.md section 5, R9, R23): the four configuration parameters with
their defaults, and the one free value, the random byte. The fixed sizes of R9 (4096 bytes of memory, the program at
0x200, at most 3584 bytes of program) stand as numerals where they are used. -/

namespace Sys2Proof

/-- `SHIFT_SOURCE`: the operand that `8XY6` and `8XYE` shift (R9, R88, R90). -/
inductive ShiftSource where
  | vx
  | vy
  deriving DecidableEq, Repr

/-- `UNKNOWN_OPCODE_POLICY`: what a cycle reports for an unassigned encoding (R9, R55). -/
inductive UnknownOpcodePolicy where
  | silent
  | diagnose
  deriving DecidableEq, Repr

/-- The configuration of one machine, fixed for its lifetime (R9, R23). -/
structure Config where
  /-- `STACK_CAPACITY`, at least 1 (R15). -/
  stackCapacity : Nat
  /-- `SHIFT_SOURCE`. -/
  shiftSource : ShiftSource
  /-- `UNKNOWN_OPCODE_POLICY`. -/
  unknownOpcodePolicy : UnknownOpcodePolicy
  /-- `FONT`: 16 glyphs of 5 bytes, the glyph of digit `d` at `5 * d` (R32). -/
  font : Vector Byte 80
  deriving DecidableEq, Repr

/-- The default glyph table of R32, one line a glyph.
PRESUMED (log 5): the spec marks these bytes as general knowledge. -/
def Config.defaultFontBytes : List Byte :=
  [0xF0, 0x90, 0x90, 0x90, 0xF0] ++
  [0x20, 0x60, 0x20, 0x20, 0x70] ++
  [0xF0, 0x10, 0xF0, 0x80, 0xF0] ++
  [0xF0, 0x10, 0xF0, 0x10, 0xF0] ++
  [0x90, 0x90, 0xF0, 0x10, 0x10] ++
  [0xF0, 0x80, 0xF0, 0x10, 0xF0] ++
  [0xF0, 0x80, 0xF0, 0x90, 0xF0] ++
  [0xF0, 0x10, 0x20, 0x40, 0x40] ++
  [0xF0, 0x90, 0xF0, 0x90, 0xF0] ++
  [0xF0, 0x90, 0xF0, 0x10, 0xF0] ++
  [0xF0, 0x90, 0xF0, 0x90, 0x90] ++
  [0xE0, 0x90, 0xE0, 0x90, 0xE0] ++
  [0xF0, 0x80, 0x80, 0x80, 0xF0] ++
  [0xE0, 0x90, 0x90, 0x90, 0xE0] ++
  [0xF0, 0x80, 0xF0, 0x80, 0xF0] ++
  [0xF0, 0x80, 0xF0, 0x80, 0x80]

/-- The default `FONT` (R32; PRESUMED, log 5). -/
def Config.defaultFont : Vector Byte 80 :=
  ⟨Config.defaultFontBytes.toArray, rfl⟩

/-- The default configuration (00_scope.md section 5). -/
def Config.default : Config where
  stackCapacity := 16
  shiftSource := .vx
  unknownOpcodePolicy := .diagnose
  font := Config.defaultFont

/-- The FREE VALUE of the model: the `n`-th random byte that the outside supplies to a cycle for which State lists no
input (R91, R146, D21). It has no body, so nothing can be proved of it and every claim holds for all 256 values (log 3). -/
opaque Config.freeRandomByte : Nat → Byte

end Sys2Proof
end

