-- ==== Sys2Proof/Syntax.lean ====
section
/-! DEFINITION. The instructions: one constructor per row of spec/opcode_table.json (R54), operands as R53 gives them.
`nnn` is a 12-bit address and `n` a 4-bit row count, held as naturals and bounded in WellFormed.lean. -/

namespace Sys2Proof

/-- The 34 instructions of R54, in the order of its table. -/
inductive Instr where
  /-- `00E0` CLS (R110). -/
  | cls
  /-- `00EE` RET (R70). -/
  | ret
  /-- `1NNN` JP NNN (R71). -/
  | jp (nnn : Nat)
  /-- `2NNN` CALL NNN (R72). -/
  | call (nnn : Nat)
  /-- `3XNN` SE VX, NN (R73). -/
  | seImm (x : Reg) (nn : Byte)
  /-- `4XNN` SNE VX, NN (R74). -/
  | sneImm (x : Reg) (nn : Byte)
  /-- `5XY0` SE VX, VY (R75). -/
  | seReg (x y : Reg)
  /-- `6XNN` LD VX, NN (R80). -/
  | ldImm (x : Reg) (nn : Byte)
  /-- `7XNN` ADD VX, NN (R81). -/
  | addImm (x : Reg) (nn : Byte)
  /-- `8XY0` LD VX, VY (R82). -/
  | ldReg (x y : Reg)
  /-- `8XY1` OR VX, VY (R83). -/
  | or (x y : Reg)
  /-- `8XY2` AND VX, VY (R84). -/
  | and (x y : Reg)
  /-- `8XY3` XOR VX, VY (R85). -/
  | xor (x y : Reg)
  /-- `8XY4` ADD VX, VY (R86). -/
  | addReg (x y : Reg)
  /-- `8XY5` SUB VX, VY (R87). -/
  | sub (x y : Reg)
  /-- `8XY6` SHR VX, VY (R88). -/
  | shr (x y : Reg)
  /-- `8XY7` SUBN VX, VY (R89). -/
  | subn (x y : Reg)
  /-- `8XYE` SHL VX, VY (R90). -/
  | shl (x y : Reg)
  /-- `9XY0` SNE VX, VY (R76). -/
  | sneReg (x y : Reg)
  /-- `ANNN` LD I, NNN (R100). -/
  | ldI (nnn : Nat)
  /-- `BNNN` JP V0, NNN (R77). -/
  | jpV0 (nnn : Nat)
  /-- `CXNN` RND VX, NN (R91). -/
  | rnd (x : Reg) (nn : Byte)
  /-- `DXYN` DRW VX, VY, N (R111). -/
  | drw (x y : Reg) (n : Nat)
  /-- `EX9E` SKP VX (R120). -/
  | skp (x : Reg)
  /-- `EXA1` SKNP VX (R121). -/
  | sknp (x : Reg)
  /-- `FX07` LD VX, DT (R122). -/
  | ldVxDt (x : Reg)
  /-- `FX0A` LD VX, K (R123). -/
  | ldVxK (x : Reg)
  /-- `FX15` LD DT, VX (R124). -/
  | ldDtVx (x : Reg)
  /-- `FX18` LD ST, VX (R125). -/
  | ldStVx (x : Reg)
  /-- `FX1E` ADD I, VX (R101). -/
  | addIVx (x : Reg)
  /-- `FX29` LD F, VX (R102). -/
  | ldFVx (x : Reg)
  /-- `FX33` LD B, VX (R103). -/
  | ldBVx (x : Reg)
  /-- `FX55` LD [I], VX (R104). -/
  | ldMemVx (x : Reg)
  /-- `FX65` LD VX, [I] (R105). -/
  | ldVxMem (x : Reg)
  deriving DecidableEq, Repr

end Sys2Proof
end

