-- ==== Sys2Proof/WellFormed.lean ====
section
/-! DEFINITION. The checks on raw data: an instruction's operands fit their fields (R51, R53), a configuration has a
stack (R15, D20). Register indices and `NN` are bounded by their types. -/

namespace Sys2Proof

/-- `NNN` must fit 12 bits (R51, R53). -/
def addressFits (nnn : Nat) : Bool := decide (nnn < 4096)

/-- `N` must fit 4 bits (R51, R53). -/
def rowCountFits (n : Nat) : Bool := decide (n < 16)

/-- Every operand fits the field that R51 gives it. -/
def Instr.wellFormed : Instr → Bool
  | .cls => true
  | .ret => true
  | .jp nnn => addressFits nnn
  | .call nnn => addressFits nnn
  | .seImm _ _ => true
  | .sneImm _ _ => true
  | .seReg _ _ => true
  | .ldImm _ _ => true
  | .addImm _ _ => true
  | .ldReg _ _ => true
  | .or _ _ => true
  | .and _ _ => true
  | .xor _ _ => true
  | .addReg _ _ => true
  | .sub _ _ => true
  | .shr _ _ => true
  | .subn _ _ => true
  | .shl _ _ => true
  | .sneReg _ _ => true
  | .ldI nnn => addressFits nnn
  | .jpV0 nnn => addressFits nnn
  | .rnd _ _ => true
  | .drw _ _ n => rowCountFits n
  | .skp _ => true
  | .sknp _ => true
  | .ldVxDt _ => true
  | .ldVxK _ => true
  | .ldDtVx _ => true
  | .ldStVx _ => true
  | .addIVx _ => true
  | .ldFVx _ => true
  | .ldBVx _ => true
  | .ldMemVx _ => true
  | .ldVxMem _ => true

/-- `STACK_CAPACITY` is at least 1 (R15, D20). -/
def Config.wellFormed (c : Config) : Bool := decide (1 ≤ c.stackCapacity)

end Sys2Proof
end

