-- ==== Sys2Proof/Decode.lean ====
section
/-! DEFINITION. Instruction fields, the opcode table, the decoder and the encoder (R35, R50 to R55, R58), and the
assembler syntax of an instruction (R60). -/

namespace Sys2Proof

/-- The `F` field, `op[15:12]`: the family (R51). -/
def fieldF (op : Word) : Nat := op.toNat / 4096 % 16

/-- The `X` field, `op[11:8]` (R51). -/
def fieldX (op : Word) : Reg := ⟨op.toNat / 256 % 16, Nat.mod_lt _ (by decide)⟩

/-- The `Y` field, `op[7:4]` (R51). -/
def fieldY (op : Word) : Reg := ⟨op.toNat / 16 % 16, Nat.mod_lt _ (by decide)⟩

/-- The `N` field, `op[3:0]` (R51). -/
def fieldN (op : Word) : Nat := op.toNat % 16

/-- The `NN` field, `op[7:0]`, as a number (R51). -/
def fieldNN (op : Word) : Nat := op.toNat % 256

/-- The `NN` field as an immediate byte (R51, R53). -/
def immNN (op : Word) : Byte := BitVec.ofNat 8 (fieldNN op)

/-- The `NNN` field, `op[11:0]` (R51). -/
def fieldNNN (op : Word) : Nat := op.toNat % 4096

/-- Why the decoder rejects. -/
inductive DecodeError where
  /-- The word matches no row of R54: an unassigned encoding, which a cycle skips as a no-op (R55). -/
  | unassigned (op : Word)
  /-- Fewer than the two bytes of an instruction were given (R50); the machine's fetch never does this. -/
  | tooFewBytes
  deriving DecidableEq, Repr

/-- The second level of family `0x0`: the whole of `NNN` (R54). -/
def decodeFamily0 (op : Word) : Except DecodeError Instr :=
  match fieldNNN op with
  | 0x0E0 => .ok .cls
  | 0x0EE => .ok .ret
  | _ => .error (.unassigned op)

/-- The second level of family `0x8`: `N` (R54, C4). -/
def decodeFamily8 (op : Word) : Except DecodeError Instr :=
  match fieldN op with
  | 0x0 => .ok (.ldReg (fieldX op) (fieldY op))
  | 0x1 => .ok (.or (fieldX op) (fieldY op))
  | 0x2 => .ok (.and (fieldX op) (fieldY op))
  | 0x3 => .ok (.xor (fieldX op) (fieldY op))
  | 0x4 => .ok (.addReg (fieldX op) (fieldY op))
  | 0x5 => .ok (.sub (fieldX op) (fieldY op))
  | 0x6 => .ok (.shr (fieldX op) (fieldY op))
  | 0x7 => .ok (.subn (fieldX op) (fieldY op))
  | 0xE => .ok (.shl (fieldX op) (fieldY op))
  | _ => .error (.unassigned op)

/-- The second level of family `0xE`: `NN` (R54). -/
def decodeFamilyE (op : Word) : Except DecodeError Instr :=
  match fieldNN op with
  | 0x9E => .ok (.skp (fieldX op))
  | 0xA1 => .ok (.sknp (fieldX op))
  | _ => .error (.unassigned op)

/-- The second level of family `0xF`: `NN` (R54). -/
def decodeFamilyF (op : Word) : Except DecodeError Instr :=
  match fieldNN op with
  | 0x07 => .ok (.ldVxDt (fieldX op))
  | 0x0A => .ok (.ldVxK (fieldX op))
  | 0x15 => .ok (.ldDtVx (fieldX op))
  | 0x18 => .ok (.ldStVx (fieldX op))
  | 0x1E => .ok (.addIVx (fieldX op))
  | 0x29 => .ok (.ldFVx (fieldX op))
  | 0x33 => .ok (.ldBVx (fieldX op))
  | 0x55 => .ok (.ldMemVx (fieldX op))
  | 0x65 => .ok (.ldVxMem (fieldX op))
  | _ => .error (.unassigned op)

/-- The two-level decode of R54: outer dispatch on the family, inner dispatch on the discriminating sub-field. -/
def decodeWord (op : Word) : Except DecodeError Instr :=
  match fieldF op with
  | 0x0 => decodeFamily0 op
  | 0x1 => .ok (.jp (fieldNNN op))
  | 0x2 => .ok (.call (fieldNNN op))
  | 0x3 => .ok (.seImm (fieldX op) (immNN op))
  | 0x4 => .ok (.sneImm (fieldX op) (immNN op))
  | 0x5 => if fieldN op = 0 then .ok (.seReg (fieldX op) (fieldY op)) else .error (.unassigned op)
  | 0x6 => .ok (.ldImm (fieldX op) (immNN op))
  | 0x7 => .ok (.addImm (fieldX op) (immNN op))
  | 0x8 => decodeFamily8 op
  | 0x9 => if fieldN op = 0 then .ok (.sneReg (fieldX op) (fieldY op)) else .error (.unassigned op)
  | 0xA => .ok (.ldI (fieldNNN op))
  | 0xB => .ok (.jpV0 (fieldNNN op))
  | 0xC => .ok (.rnd (fieldX op) (immNN op))
  | 0xD => .ok (.drw (fieldX op) (fieldY op) (fieldN op))
  | 0xE => decodeFamilyE op
  | _ => decodeFamilyF op

/-- Big-endian: the byte at the lower address is the high byte (R35). -/
def wordOfBytes (hi lo : Byte) : Word := BitVec.ofNat 16 (hi.toNat * 256 + lo.toNat)

/-- The byte at the lower address of a word in memory (R35). -/
def highByte (op : Word) : Byte := BitVec.ofNat 8 (op.toNat / 256)

/-- The byte at the higher address of a word in memory (R35). -/
def lowByte (op : Word) : Byte := BitVec.ofNat 8 op.toNat

/-- Decoding from a byte sequence: every instruction is two bytes, high byte first (R50, R35). -/
def decodeBytes : List Byte → Except DecodeError (Instr × List Byte)
  | hi :: lo :: rest =>
    match decodeWord (wordOfBytes hi lo) with
    | .ok instr => .ok (instr, rest)
    | .error e => .error e
  | _ => .error .tooFewBytes

/-- The instruction the decoder reads from a row's bits, numbered from the least significant bit of the word. -/
def decodeTableWord (_nbits w : Nat) : Option Instr :=
  match decodeBytes [highByte (BitVec.ofNat 16 w), lowByte (BitVec.ofNat 16 w)] with
  | .ok (instr, _) => some instr
  | .error _ => none

/-! ### The encoder -/

/-- Formats `NNN`: `F NNN` (R52). -/
def encodeNNN (f nnn : Nat) : Word := BitVec.ofNat 16 (f * 4096 + nnn)

/-- Formats `XNN` and `X`: `F X NN` (R52). -/
def encodeXNN (f : Nat) (x : Reg) (nn : Nat) : Word := BitVec.ofNat 16 (f * 4096 + x.val * 256 + nn)

/-- Formats `XYN` and `XY`: `F X Y N` (R52). -/
def encodeXYN (f : Nat) (x y : Reg) (n : Nat) : Word :=
  BitVec.ofNat 16 (f * 4096 + x.val * 256 + y.val * 16 + n)

/-- The word of an instruction, from the patterns of R54. -/
def encode : Instr → Word
  | .cls => 0x00E0
  | .ret => 0x00EE
  | .jp nnn => encodeNNN 0x1 nnn
  | .call nnn => encodeNNN 0x2 nnn
  | .seImm x nn => encodeXNN 0x3 x nn.toNat
  | .sneImm x nn => encodeXNN 0x4 x nn.toNat
  | .seReg x y => encodeXYN 0x5 x y 0x0
  | .ldImm x nn => encodeXNN 0x6 x nn.toNat
  | .addImm x nn => encodeXNN 0x7 x nn.toNat
  | .ldReg x y => encodeXYN 0x8 x y 0x0
  | .or x y => encodeXYN 0x8 x y 0x1
  | .and x y => encodeXYN 0x8 x y 0x2
  | .xor x y => encodeXYN 0x8 x y 0x3
  | .addReg x y => encodeXYN 0x8 x y 0x4
  | .sub x y => encodeXYN 0x8 x y 0x5
  | .shr x y => encodeXYN 0x8 x y 0x6
  | .subn x y => encodeXYN 0x8 x y 0x7
  | .shl x y => encodeXYN 0x8 x y 0xE
  | .sneReg x y => encodeXYN 0x9 x y 0x0
  | .ldI nnn => encodeNNN 0xA nnn
  | .jpV0 nnn => encodeNNN 0xB nnn
  | .rnd x nn => encodeXNN 0xC x nn.toNat
  | .drw x y n => encodeXYN 0xD x y n
  | .skp x => encodeXNN 0xE x 0x9E
  | .sknp x => encodeXNN 0xE x 0xA1
  | .ldVxDt x => encodeXNN 0xF x 0x07
  | .ldVxK x => encodeXNN 0xF x 0x0A
  | .ldDtVx x => encodeXNN 0xF x 0x15
  | .ldStVx x => encodeXNN 0xF x 0x18
  | .addIVx x => encodeXNN 0xF x 0x1E
  | .ldFVx x => encodeXNN 0xF x 0x29
  | .ldBVx x => encodeXNN 0xF x 0x33
  | .ldMemVx x => encodeXNN 0xF x 0x55
  | .ldVxMem x => encodeXNN 0xF x 0x65

/-- The two bytes of an instruction in memory order (R35, R50). -/
def encodeBytes (instr : Instr) : List Byte := [highByte (encode instr), lowByte (encode instr)]

/-! ### The opcode table of R54 as data -/

/-- One row of the opcode table: a word `op` is that row's instruction when `op &&& mask = bits` (R54). -/
structure OpcodeRow where
  mnemonic : String
  bits : Word
  mask : Word
  deriving DecidableEq, Repr

/-- `op` matches the row (R54). -/
def OpcodeRow.matches (r : OpcodeRow) (op : Word) : Bool := op &&& r.mask == r.bits

/-- Rows 1 to 9 of R54: families 0 to 7. -/
def opcodeRowsLow : List OpcodeRow :=
  [⟨"CLS", 0x00E0, 0xFFFF⟩, ⟨"RET", 0x00EE, 0xFFFF⟩, ⟨"JP", 0x1000, 0xF000⟩, ⟨"CALL", 0x2000, 0xF000⟩,
   ⟨"SE_IMM", 0x3000, 0xF000⟩, ⟨"SNE_IMM", 0x4000, 0xF000⟩, ⟨"SE_REG", 0x5000, 0xF00F⟩,
   ⟨"LD_IMM", 0x6000, 0xF000⟩, ⟨"ADD_IMM", 0x7000, 0xF000⟩]

/-- Rows 10 to 18 of R54: family 8. -/
def opcodeRowsAlu : List OpcodeRow :=
  [⟨"LD_REG", 0x8000, 0xF00F⟩, ⟨"OR", 0x8001, 0xF00F⟩, ⟨"AND", 0x8002, 0xF00F⟩, ⟨"XOR", 0x8003, 0xF00F⟩,
   ⟨"ADD_REG", 0x8004, 0xF00F⟩, ⟨"SUB", 0x8005, 0xF00F⟩, ⟨"SHR", 0x8006, 0xF00F⟩, ⟨"SUBN", 0x8007, 0xF00F⟩,
   ⟨"SHL", 0x800E, 0xF00F⟩]

/-- Rows 19 to 25 of R54: families 9 to E. -/
def opcodeRowsHigh : List OpcodeRow :=
  [⟨"SNE_REG", 0x9000, 0xF00F⟩, ⟨"LD_I", 0xA000, 0xF000⟩, ⟨"JP_V0", 0xB000, 0xF000⟩, ⟨"RND", 0xC000, 0xF000⟩,
   ⟨"DRW", 0xD000, 0xF000⟩, ⟨"SKP", 0xE09E, 0xF0FF⟩, ⟨"SKNP", 0xE0A1, 0xF0FF⟩]

/-- Rows 26 to 34 of R54: family F. -/
def opcodeRowsF : List OpcodeRow :=
  [⟨"LD_VX_DT", 0xF007, 0xF0FF⟩, ⟨"LD_VX_K", 0xF00A, 0xF0FF⟩, ⟨"LD_DT_VX", 0xF015, 0xF0FF⟩,
   ⟨"LD_ST_VX", 0xF018, 0xF0FF⟩, ⟨"ADD_I_VX", 0xF01E, 0xF0FF⟩, ⟨"LD_F_VX", 0xF029, 0xF0FF⟩,
   ⟨"LD_B_VX", 0xF033, 0xF0FF⟩, ⟨"LD_MEM_VX", 0xF055, 0xF0FF⟩, ⟨"LD_VX_MEM", 0xF065, 0xF0FF⟩]

/-- The 34 rows of R54, in its order. -/
def opcodeTable : List OpcodeRow := opcodeRowsLow ++ opcodeRowsAlu ++ opcodeRowsHigh ++ opcodeRowsF

/-- The mnemonic of an instruction's row, as spec/opcode_table.json spells it. -/
def Instr.mnemonic : Instr → String
  | .cls => "CLS"
  | .ret => "RET"
  | .jp _ => "JP"
  | .call _ => "CALL"
  | .seImm _ _ => "SE_IMM"
  | .sneImm _ _ => "SNE_IMM"
  | .seReg _ _ => "SE_REG"
  | .ldImm _ _ => "LD_IMM"
  | .addImm _ _ => "ADD_IMM"
  | .ldReg _ _ => "LD_REG"
  | .or _ _ => "OR"
  | .and _ _ => "AND"
  | .xor _ _ => "XOR"
  | .addReg _ _ => "ADD_REG"
  | .sub _ _ => "SUB"
  | .shr _ _ => "SHR"
  | .subn _ _ => "SUBN"
  | .shl _ _ => "SHL"
  | .sneReg _ _ => "SNE_REG"
  | .ldI _ => "LD_I"
  | .jpV0 _ => "JP_V0"
  | .rnd _ _ => "RND"
  | .drw _ _ _ => "DRW"
  | .skp _ => "SKP"
  | .sknp _ => "SKNP"
  | .ldVxDt _ => "LD_VX_DT"
  | .ldVxK _ => "LD_VX_K"
  | .ldDtVx _ => "LD_DT_VX"
  | .ldStVx _ => "LD_ST_VX"
  | .addIVx _ => "ADD_I_VX"
  | .ldFVx _ => "LD_F_VX"
  | .ldBVx _ => "LD_B_VX"
  | .ldMemVx _ => "LD_MEM_VX"
  | .ldVxMem _ => "LD_VX_MEM"

/-! ### Assembler syntax -/

/-- One hexadecimal digit. -/
def hexDigit (n : Nat) : String :=
  (["0", "1", "2", "3", "4", "5", "6", "7"] ++ ["8", "9", "A", "B", "C", "D", "E", "F"]).getD (n % 16) "0"

/-- The lowest `k` hexadecimal digits of `n`. -/
def hexDigits : Nat → Nat → String
  | 0, _ => ""
  | k + 1, n => hexDigits k (n / 16) ++ hexDigit n

/-- An immediate in hexadecimal, which R60 allows beside decimal. -/
def hexLiteral (k n : Nat) : String := "0x" ++ hexDigits k n

/-- `V0` to `VF` (R60). -/
def regName (r : Reg) : String := "V" ++ hexDigit r.val

/-- An instruction in the assembler syntax of R60, immediates in hexadecimal. -/
def Instr.assembly : Instr → String
  | .cls => "CLS"
  | .ret => "RET"
  | .jp nnn => "JP " ++ hexLiteral 3 nnn
  | .call nnn => "CALL " ++ hexLiteral 3 nnn
  | .seImm x nn => "SE " ++ regName x ++ ", " ++ hexLiteral 2 nn.toNat
  | .sneImm x nn => "SNE " ++ regName x ++ ", " ++ hexLiteral 2 nn.toNat
  | .seReg x y => "SE " ++ regName x ++ ", " ++ regName y
  | .ldImm x nn => "LD " ++ regName x ++ ", " ++ hexLiteral 2 nn.toNat
  | .addImm x nn => "ADD " ++ regName x ++ ", " ++ hexLiteral 2 nn.toNat
  | .ldReg x y => "LD " ++ regName x ++ ", " ++ regName y
  | .or x y => "OR " ++ regName x ++ ", " ++ regName y
  | .and x y => "AND " ++ regName x ++ ", " ++ regName y
  | .xor x y => "XOR " ++ regName x ++ ", " ++ regName y
  | .addReg x y => "ADD " ++ regName x ++ ", " ++ regName y
  | .sub x y => "SUB " ++ regName x ++ ", " ++ regName y
  | .shr x y => "SHR " ++ regName x ++ ", " ++ regName y
  | .subn x y => "SUBN " ++ regName x ++ ", " ++ regName y
  | .shl x y => "SHL " ++ regName x ++ ", " ++ regName y
  | .sneReg x y => "SNE " ++ regName x ++ ", " ++ regName y
  | .ldI nnn => "LD I, " ++ hexLiteral 3 nnn
  | .jpV0 nnn => "JP V0, " ++ hexLiteral 3 nnn
  | .rnd x nn => "RND " ++ regName x ++ ", " ++ hexLiteral 2 nn.toNat
  | .drw x y n => "DRW " ++ regName x ++ ", " ++ regName y ++ ", " ++ hexLiteral 1 n
  | .skp x => "SKP " ++ regName x
  | .sknp x => "SKNP " ++ regName x
  | .ldVxDt x => "LD " ++ regName x ++ ", DT"
  | .ldVxK x => "LD " ++ regName x ++ ", K"
  | .ldDtVx x => "LD DT, " ++ regName x
  | .ldStVx x => "LD ST, " ++ regName x
  | .addIVx x => "ADD I, " ++ regName x
  | .ldFVx x => "LD F, " ++ regName x
  | .ldBVx x => "LD B, " ++ regName x
  | .ldMemVx x => "LD [I], " ++ regName x
  | .ldVxMem x => "LD " ++ regName x ++ ", [I]"

end Sys2Proof
end

