-- ==== Sys2Proof/Machine/State.lean ====
section
/-! DEFINITION. The state of the core (10_state.md), the reasons a step can stop, and the state after `init` (R25). -/

namespace Sys2Proof.Machine

/-- The fault latch `FAULT` (R22). -/
inductive FaultLatch where
  /-- 0: no fault; instructions execute. -/
  | clear
  /-- 1: latched by `2NNN` on a full stack (R131). -/
  | stackOverflow
  /-- 2: latched by `00EE` on an empty stack (R132). -/
  | stackUnderflow
  deriving DecidableEq, Repr

/-- An event of the host that changes the core between two cycles (R2, R4). -/
inductive HostEvent where
  /-- `tick_timers()` (R141). -/
  | tickTimers
  /-- `set_key(k, pressed)` (R144). -/
  | setKey (k : KeyIndex) (pressed : Bool)
  deriving DecidableEq, Repr

/-- What the host supplies to one cycle: the events it issues before the cycle, in order (R4), and the cycle's `rnd`
input (R56, R146). -/
structure CycleInput where
  events : List HostEvent
  rnd : Byte
  deriving DecidableEq, Repr

/-- Memory as pairs of address and byte; `Memory.wf` is its canonical form and `Memory.read` its meaning. -/
abbrev Memory := List Host.Cell

/-- The state of the machine. The last four fields are not the spec's state: the configuration it was built with (R23,
log 1) and the inputs of its cycles (log 3, log 4). -/
structure State where
  /-- `V[0..15]` (R10); `V[15]` is the flag (R11). -/
  v : Vector Byte 16
  /-- The index register `I` (R13). -/
  i : Word
  /-- The program counter `PC` (R14). -/
  pc : Word
  /-- `STACK[0..SP-1]`, oldest first; `SP` is its length (R15, D34, log 2). -/
  stack : List Word
  /-- The delay timer `DT` (R16). -/
  dt : Byte
  /-- The sound timer `ST` (R17). -/
  st : Byte
  /-- `KEY[0..15]`, true when pressed (R18). -/
  keys : Vector Bool 16
  /-- The display: `fb[y][x]` is `FB[y][x]` (R19). -/
  fb : Vector (Vector Bool 64) 32
  /-- `MEM` (R20, R30). -/
  mem : Memory
  /-- The latch `FAULT` (R22). -/
  fault : FaultLatch
  /-- The configuration, written by no operation (R23, log 1). -/
  config : Config
  /-- The `rnd` input of the cycle in progress (R56, R146, log 3). -/
  rnd : Byte
  /-- How many free random bytes have been supplied (log 3). -/
  freeDraws : Nat
  /-- What the host supplies to the coming cycles, the next cycle first (R4, log 4). -/
  inputs : List CycleInput
  deriving DecidableEq, Repr

/-- The reasons the machine ends a step in a host-level fault: there are none. The two stack faults of the spec leave a
state, the latched one, in which ticks and key events still act, so they are next states (R133, D33, log 8). -/
inductive Fault where
  deriving DecidableEq, Repr

/-- The reasons a step is refused. -/
inductive Refusal where
  /-- Raised by `exec` for an instruction that has no meaning yet; safe, because nothing is claimed of it. No arm of
  this model raises it. -/
  | notModelled (mnemonic : String)
  deriving DecidableEq, Repr

/-- What a meaning answers. -/
abbrev Result := Host.Outcome State Fault Refusal

/-- The state that `init()` leaves in a machine built with configuration `c` (R25, R160). The values of `rnd`,
`freeDraws` and `inputs` are DESIGN CHOICES (log 3, log 4). -/
def State.init (c : Config) : State where
  v := Vector.replicate 16 0
  i := 0
  pc := 0x200
  stack := []
  dt := 0
  st := 0
  keys := Vector.replicate 16 false
  fb := Vector.replicate 32 (Vector.replicate 64 false)
  mem := []
  fault := .clear
  config := c
  rnd := 0
  freeDraws := 0
  inputs := []

/-- The machine right after reset, with the default configuration. -/
def State.reset : State := State.init Config.default

end Sys2Proof.Machine
end

