-- ==== Sys2Proof/Machine/Ops.lean ====
section
/-! DEFINITION. The named operations over memory, registers, stack, display and latch (R10 to R22, R33 to R36, R133). -/

namespace Sys2Proof.Machine

/-! ### Memory -/

/-- What an address reads as after `init`, and so what an unlisted address reads as: the font, then zero (R25, R32). -/
def initialByte (font : Vector Byte 80) (a : Nat) : Byte :=
  if h : a < 80 then font[a] else 0

/-- The byte at address `a`. -/
def Memory.read (font : Vector Byte 80) : Memory → Nat → Byte
  | [], a => initialByte font a
  | (b, w) :: rest, a => if a = b then w else Memory.read font rest a

/-- The memory with byte `x` at address `a`; it keeps the canonical form. -/
def Memory.write (font : Vector Byte 80) : Memory → Nat → Byte → Memory
  | [], a, x => if x = initialByte font a then [] else [(a, x)]
  | (b, w) :: rest, a, x =>
    if a < b then
      if x = initialByte font a then (b, w) :: rest else (a, x) :: (b, w) :: rest
    else if a = b then
      if x = initialByte font a then rest else (a, x) :: rest
    else (b, w) :: Memory.write font rest a x

/-- The canonical form: addresses strictly rising and inside the memory, no entry equal to what an unlisted address
reads as. -/
abbrev Memory.wf (font : Vector Byte 80) (m : Memory) : Prop :=
  m.Pairwise (fun c d => c.1 < d.1) ∧ ∀ c ∈ m, c.1 < 4096 ∧ c.2 ≠ initialByte font c.1

/-- Every address is reduced modulo 4096 before the memory is touched (R33). -/
def wrapAddress (a : Nat) : Nat := a % 4096

/-- `MemRead(addr, 1)` (R34). -/
def State.memRead (s : State) (addr : Nat) : Byte := Memory.read s.config.font s.mem (wrapAddress addr)

/-- `MemWrite(addr, 1, x)` (R34, R39: no address is protected). -/
def State.memWrite (s : State) (addr : Nat) (x : Byte) : State :=
  { s with mem := Memory.write s.config.font s.mem (wrapAddress addr) x }

/-! ### Registers -/

/-- `V[r]` (R10). -/
def State.getV (s : State) (r : Reg) : Byte := s.v[r]

/-- `V[r] <- b` (R10: no register is hardwired). -/
def State.setV (s : State) (r : Reg) (b : Byte) : State := { s with v := s.v.set r b }

/-- `I <- n`, reduced modulo 4096 (R13, D4). -/
def State.setI (s : State) (n : Nat) : State := { s with i := BitVec.ofNat 16 (n % 4096) }

/-- `pc <- n`, reduced modulo 4096 (R14, D3). -/
def State.setPc (s : State) (n : Nat) : State := { s with pc := BitVec.ofNat 16 (n % 4096) }

/-- `DT <- b` (R16). -/
def State.setDt (s : State) (b : Byte) : State := { s with dt := b }

/-- `ST <- b` (R17). -/
def State.setSt (s : State) (b : Byte) : State := { s with st := b }

/-- A result and then a flag: `VX` is written first and `VF` second, so with `X = F` the flag stays (R92, D16). -/
def State.setResultFlag (s : State) (x : Reg) (result flag : Byte) : State := (s.setV x result).setV vf flag

/-! ### Program counter -/

/-- `npc`, the advanced program counter an instruction sees (R14, R56, D31). -/
def State.npc (s : State) : Nat := (s.pc.toNat + 2) % 4096

/-- The normal advance, `pc <- npc` (R56). -/
def State.advance (s : State) : State := s.setPc s.npc

/-- A skip instruction: `pc <- (npc + 2) mod 4096` when the condition holds, else the normal advance (R73). -/
def State.skipIf (s : State) (cond : Bool) : State := if cond then s.setPc (s.npc + 2) else s.advance

/-! ### Call stack -/

/-- `SP`, the depth (R15). -/
def State.sp (s : State) : Nat := s.stack.length

/-- The push of `2NNN`: `STACK[SP] <- n`, `SP <- SP + 1` (R72). -/
def State.push (s : State) (n : Nat) : State := { s with stack := s.stack ++ [BitVec.ofNat 16 n] }

/-- The newest entry, `STACK[SP-1]`, as an address; meaningful only when `SP` is not 0 (R70). -/
def State.top (s : State) : Nat := (s.stack.getLastD 0).toNat

/-- The pop of `00EE`: `SP <- SP - 1` (R70). -/
def State.pop (s : State) : State := { s with stack := s.stack.dropLast }

/-! ### Faults: the whole of taking an exception -/

/-- `raise <Fault>(pc0)`: every write of the cycle is abandoned, the advance of `PC` included, and the only state that
changes is `FAULT` (R133, R139). No handler is entered and no return from a fault exists: only `init` leaves the faulted
state (R140). A meaning applies it to the state it was given, so that it has made no write before. -/
def State.raise (s : State) (f : FaultLatch) : State := { s with fault := f }

/-! ### Display -/

/-- `FB[y][x]` (R19). -/
def State.getPixel (s : State) (x : Fin 64) (y : Fin 32) : Bool := s.fb[y][x]

/-- `FB[y][x] <- b` (R19). -/
def State.setPixel (s : State) (x : Fin 64) (y : Fin 32) (b : Bool) : State :=
  { s with fb := s.fb.set y (s.fb[y].set x b) }

/-- Every pixel to 0 (R110). -/
def State.clearDisplay (s : State) : State :=
  { s with fb := Vector.replicate 32 (Vector.replicate 64 false) }

/-! ### Keypad -/

/-- `KEY[k]` (R18). -/
def State.getKey (s : State) (k : KeyIndex) : Bool := s.keys[k]

/-- `KEY[k] <- pressed`, the host's write (R144). -/
def State.setKey (s : State) (k : KeyIndex) (pressed : Bool) : State :=
  { s with keys := s.keys.set k pressed }

end Sys2Proof.Machine
end

