-- ==== Sys2Proof/Machine/Operands.lean ====
section
/-! DEFINITION. The operand forms: what an instruction reads beyond a plain register or immediate (R53). -/

namespace Sys2Proof.Machine

/-- The 16 register (or key) indices in ascending order. -/
def allIndices : List (Fin 16) := [0, 1, 2, 3, 4, 5, 6, 7] ++ [8, 9, 10, 11, 12, 13, 14, 15]

/-- The implicit register range `V0..VX`, ascending (R53, R104, R105). -/
def regsUpTo (x : Reg) : List Reg := allIndices.take (x.val + 1)

/-- The shifted operand of `8XY6` and `8XYE`, chosen by `SHIFT_SOURCE` (R88, R90, D18). -/
def State.shiftOperand (s : State) (x y : Reg) : Byte :=
  match s.config.shiftSource with
  | .vx => s.getV x
  | .vy => s.getV y

/-- The address of the `k`-th byte of a data access: base `I` plus offset, reduced modulo 4096 (R33, R36). -/
def State.dataAddr (s : State) (k : Nat) : Nat := wrapAddress (s.i.toNat + k)

/-- The address of the font glyph for `b`, unmasked (R102, D14). -/
def glyphAddress (b : Byte) : Nat := b.toNat * 5

/-- The hundreds digit of `b` (R103). -/
def hundredsDigit (b : Byte) : Byte := BitVec.ofNat 8 (b.toNat / 100)

/-- The tens digit of `b` (R103). -/
def tensDigit (b : Byte) : Byte := BitVec.ofNat 8 (b.toNat / 10 % 10)

/-- The ones digit of `b` (R103). -/
def onesDigit (b : Byte) : Byte := BitVec.ofNat 8 (b.toNat % 10)

/-- The origin column of a sprite, `VX mod 64` (R111). -/
def State.originX (s : State) (x : Reg) : Nat := (s.getV x).toNat % 64

/-- The origin row of a sprite, `VY mod 32` (R111). -/
def State.originY (s : State) (y : Reg) : Nat := (s.getV y).toNat % 32

/-- Whether the key numbered by the full value of `VX` is pressed; an index above 15 selects no key (R120, R121, D13). -/
def State.selectedKey (s : State) (x : Reg) : Bool :=
  if h : (s.getV x).toNat < 16 then s.getKey ⟨(s.getV x).toNat, h⟩ else false

/-- The smallest pressed key index, none when no key is pressed (R123, D12). -/
def State.lowestKey (s : State) : Option KeyIndex := allIndices.find? (fun k => s.getKey k)

end Sys2Proof.Machine
end

