-- ==== Sys2Proof/Machine/Flags.lean ====
section
/-! DEFINITION. The value every flag-writing instruction gives `VF`, computed from the operands as they were before the
instruction (R11, R92, R93). -/

namespace Sys2Proof.Machine

/-- A flag value: 1 or 0. -/
def flagByte (b : Bool) : Byte := if b then 1 else 0

/-- Carry out of `8XY4`: 1 when the sum exceeds 255 (R86). -/
def carryFlag (a b : Byte) : Byte := flagByte (decide (a.toNat + b.toNat > 255))

/-- NOT borrow of `a - b`: 1 when `a >= b` (R87, R89). -/
def notBorrowFlag (a b : Byte) : Byte := flagByte (decide (a.toNat ≥ b.toNat))

/-- The bit that `8XY6` shifts out: bit 0 (R88). -/
def shiftRightFlag (b : Byte) : Byte := BitVec.ofNat 8 (b.toNat % 2)

/-- The bit that `8XYE` shifts out: bit 7 (R90). -/
def shiftLeftFlag (b : Byte) : Byte := BitVec.ofNat 8 (b.toNat / 128)

/-- Whether `FX1E` passes the 12-bit range; only then is `VF` written (R101). -/
def indexOverflows (index : Word) (b : Byte) : Bool := decide (index.toNat + b.toNat > 0xFFF)

end Sys2Proof.Machine
end

