-- ==== Sys2Proof/Machine/ControlFlow.lean ====
section
/-! DEFINITION. The control-flow instructions (40_control_flow.md, R70 to R77). A meaning is given the state at
the start of the cycle, with `PC` at the instruction (`pc0`), and makes the advance itself (R56). -/

namespace Sys2Proof.Machine

/-- `00EE` RET (R70; on an empty stack R132, R133). -/
def execRet (s : State) : Result :=
  if s.sp = 0 then .next (s.raise .stackUnderflow) else .next (s.pop.setPc s.top)

/-- `1NNN` JP NNN (R71). -/
def execJp (nnn : Nat) (s : State) : Result := .next (s.setPc nnn)

/-- `2NNN` CALL NNN (R72; on a full stack R131, R133). -/
def execCall (nnn : Nat) (s : State) : Result :=
  if s.sp = s.config.stackCapacity then .next (s.raise .stackOverflow)
  else .next ((s.push s.npc).setPc nnn)

/-- `3XNN` SE VX, NN (R73). -/
def execSeImm (x : Reg) (nn : Byte) (s : State) : Result := .next (s.skipIf (s.getV x == nn))

/-- `4XNN` SNE VX, NN (R74). -/
def execSneImm (x : Reg) (nn : Byte) (s : State) : Result := .next (s.skipIf (s.getV x != nn))

/-- `5XY0` SE VX, VY (R75). -/
def execSeReg (x y : Reg) (s : State) : Result := .next (s.skipIf (s.getV x == s.getV y))

/-- `9XY0` SNE VX, VY (R76). -/
def execSneReg (x y : Reg) (s : State) : Result := .next (s.skipIf (s.getV x != s.getV y))

/-- `BNNN` JP V0, NNN (R77). -/
def execJpV0 (nnn : Nat) (s : State) : Result := .next (s.setPc ((s.getV 0).toNat + nnn))

end Sys2Proof.Machine
end

