-- ==== Sys2Proof/Machine/Display.lean ====
section
/-! DEFINITION. Display instructions (43_display.md, R110, R111). -/

namespace Sys2Proof.Machine

/-- The XOR of one sprite bit that is 1 at column `x`, row `y`: off the screen it is clipped; on the screen it toggles
the pixel, and turning a set pixel off sets `VF` (R111). -/
def State.togglePixel (s : State) (x y : Nat) : State :=
  if h : x < 64 ∧ y < 32 then
    let old := s.getPixel ⟨x, h.1⟩ ⟨y, h.2⟩
    (if old then s.setV vf 1 else s).setPixel ⟨x, h.1⟩ ⟨y, h.2⟩ (!old)
  else s

/-- One bit of a sprite row, `b = 0` the most significant and leftmost (R111). -/
def State.drawBit (row : Byte) (x0 y : Nat) (s : State) (b : Nat) : State :=
  if row.getLsbD (7 - b) then s.togglePixel (x0 + b) y else s

/-- Row `r` of a sprite: one byte at `I + r`, its eight bits from the left (R111). -/
def State.drawRow (x0 y0 : Nat) (s : State) (r : Nat) : State :=
  (List.range 8).foldl (State.drawBit (s.memRead (s.dataAddr r)) x0 (y0 + r)) s

/-- The `n` rows of a sprite, from the top; none when `n = 0` (R111). -/
def State.drawSprite (s : State) (x0 y0 n : Nat) : State := (List.range n).foldl (State.drawRow x0 y0) s

/-- `00E0` CLS: `VF` is not written (R110). -/
def execCls (s : State) : Result := .next s.advance.clearDisplay

/-- `DXYN` DRW VX, VY, N: the origin is read before `VF` is reset, and `VF` is reset before the rows (R111, D17). -/
def execDrw (x y : Reg) (n : Nat) (s : State) : Result :=
  .next ((s.advance.setV vf 0).drawSprite (s.originX x) (s.originY y) n)

end Sys2Proof.Machine
end

