-- ==== Sys2Proof/Machine/IndexMemory.lean ====
section
/-! DEFINITION. Index-register and memory instructions (42_index_and_memory.md, R100 to R105). -/

namespace Sys2Proof.Machine

/-- One transfer of `FX55`: `MemWrite(I + r, 1, V[r])` (R104). -/
def State.storeReg (s : State) (r : Reg) : State := s.memWrite (s.dataAddr r.val) (s.getV r)

/-- One transfer of `FX65`: `V[r] <- MemRead(I + r, 1)` (R105). -/
def State.loadReg (s : State) (r : Reg) : State := s.setV r (s.memRead (s.dataAddr r.val))

/-- `ANNN` LD I, NNN (R100). -/
def execLdI (nnn : Nat) (s : State) : Result := .next (s.advance.setI nnn)

/-- `FX1E` ADD I, VX: `VX` is read before `VF` is written, and `VF` is written only on overflow (R101, D32). -/
def execAddIVx (x : Reg) (s : State) : Result :=
  let t := s.advance.setI (s.i.toNat + (s.getV x).toNat)
  .next (if indexOverflows s.i (s.getV x) then t.setV vf 1 else t)

/-- `FX29` LD F, VX (R102). -/
def execLdFVx (x : Reg) (s : State) : Result := .next (s.advance.setI (glyphAddress (s.getV x)))

/-- `FX33` LD B, VX: three digits to `I`, `I + 1`, `I + 2` (R103). -/
def execLdBVx (x : Reg) (s : State) : Result :=
  .next (((s.advance.memWrite (s.dataAddr 0) (hundredsDigit (s.getV x))).memWrite
    (s.dataAddr 1) (tensDigit (s.getV x))).memWrite (s.dataAddr 2) (onesDigit (s.getV x)))

/-- `FX55` LD [I], VX: `V0..VX` to memory, ascending (R104, R36). -/
def execLdMemVx (x : Reg) (s : State) : Result := .next ((regsUpTo x).foldl State.storeReg s.advance)

/-- `FX65` LD VX, [I]: memory to `V0..VX`, ascending (R105, R36). -/
def execLdVxMem (x : Reg) (s : State) : Result := .next ((regsUpTo x).foldl State.loadReg s.advance)

end Sys2Proof.Machine
end

