-- ==== Sys2Proof/Machine/KeypadTimers.lean ====
section
/-! DEFINITION. Keypad and timer instructions (44_keypad_and_timers.md, R120 to R125). -/

namespace Sys2Proof.Machine

/-- `EX9E` SKP VX (R120). -/
def execSkp (x : Reg) (s : State) : Result := .next (s.skipIf (s.selectedKey x))

/-- `EXA1` SKNP VX (R121). -/
def execSknp (x : Reg) (s : State) : Result := .next (s.skipIf (!s.selectedKey x))

/-- `FX07` LD VX, DT (R122). -/
def execLdVxDt (x : Reg) (s : State) : Result := .next (s.advance.setV x s.dt)

/-- `FX0A` LD VX, K: with no key pressed `PC` stays at `pc0` and nothing changes (R123). -/
def execLdVxK (x : Reg) (s : State) : Result :=
  match s.lowestKey with
  | none => .next s
  | some k => .next (s.advance.setV x (BitVec.ofNat 8 k.val))

/-- `FX15` LD DT, VX (R124). -/
def execLdDtVx (x : Reg) (s : State) : Result := .next (s.advance.setDt (s.getV x))

/-- `FX18` LD ST, VX (R125). -/
def execLdStVx (x : Reg) (s : State) : Result := .next (s.advance.setSt (s.getV x))

end Sys2Proof.Machine
end

