-- ==== Sys2Proof/Machine/LoadAlu.lean ====
section
/-! DEFINITION. Register load, arithmetic, logic, shift and random instructions (41_load_alu_random.md, R80 to R93).
Operands are read from the state at the start of the cycle, before any write (R92). -/

namespace Sys2Proof.Machine

/-- `6XNN` LD VX, NN (R80). -/
def execLdImm (x : Reg) (nn : Byte) (s : State) : Result := .next (s.advance.setV x nn)

/-- `7XNN` ADD VX, NN: no flag (R81). -/
def execAddImm (x : Reg) (nn : Byte) (s : State) : Result :=
  .next (s.advance.setV x (BitVec.ofNat 8 ((s.getV x).toNat + nn.toNat)))

/-- `8XY0` LD VX, VY (R82). -/
def execLdReg (x y : Reg) (s : State) : Result := .next (s.advance.setV x (s.getV y))

/-- `8XY1` OR VX, VY: no flag (R83). -/
def execOr (x y : Reg) (s : State) : Result := .next (s.advance.setV x (s.getV x ||| s.getV y))

/-- `8XY2` AND VX, VY: no flag (R84). -/
def execAnd (x y : Reg) (s : State) : Result := .next (s.advance.setV x (s.getV x &&& s.getV y))

/-- `8XY3` XOR VX, VY: no flag (R85). -/
def execXor (x y : Reg) (s : State) : Result := .next (s.advance.setV x (s.getV x ^^^ s.getV y))

/-- `8XY4` ADD VX, VY (R86). -/
def execAddReg (x y : Reg) (s : State) : Result :=
  .next (s.advance.setResultFlag x (BitVec.ofNat 8 ((s.getV x).toNat + (s.getV y).toNat))
    (carryFlag (s.getV x) (s.getV y)))

/-- `8XY5` SUB VX, VY (R87). -/
def execSub (x y : Reg) (s : State) : Result :=
  .next (s.advance.setResultFlag x (s.getV x - s.getV y) (notBorrowFlag (s.getV x) (s.getV y)))

/-- `8XY6` SHR VX, VY (R88). -/
def execShr (x y : Reg) (s : State) : Result :=
  .next (s.advance.setResultFlag x (BitVec.ofNat 8 ((s.shiftOperand x y).toNat / 2))
    (shiftRightFlag (s.shiftOperand x y)))

/-- `8XY7` SUBN VX, VY (R89). -/
def execSubn (x y : Reg) (s : State) : Result :=
  .next (s.advance.setResultFlag x (s.getV y - s.getV x) (notBorrowFlag (s.getV y) (s.getV x)))

/-- `8XYE` SHL VX, VY (R90). -/
def execShl (x y : Reg) (s : State) : Result :=
  .next (s.advance.setResultFlag x (BitVec.ofNat 8 ((s.shiftOperand x y).toNat * 2))
    (shiftLeftFlag (s.shiftOperand x y)))

/-- `CXNN` RND VX, NN: `rnd` is the input of this cycle (R91, R146). -/
def execRnd (x : Reg) (nn : Byte) (s : State) : Result := .next (s.advance.setV x (s.rnd &&& nn))

end Sys2Proof.Machine
end

