-- ==== Sys2Proof/Machine/Cycle.lean ====
section
/-! DEFINITION. `execute_cycle`: fetch, decode, execute, and the status it returns (R55 to R57). -/

namespace Sys2Proof.Machine

/-- `MemRead(PC, 2)`: two consecutive bytes, big-endian, the second address wrapping (R34, R35). -/
def State.fetchWord (s : State) : Word :=
  wordOfBytes (s.memRead s.pc.toNat) (s.memRead (s.pc.toNat + 1))

/-- `execute_cycle(rnd)` with `rnd` in the state (R56): a latched fault halts it; an unassigned encoding only advances
`PC` (R55, R134); an instruction runs. -/
def executeCycle (s : State) : Result :=
  if s.fault = .clear then
    match decodeWord s.fetchWord with
    | .ok instr => exec instr s
    | .error _ => .next s.advance
  else .next s

/-- The numeric code of a latched fault (R22, R130, D8). -/
def FaultLatch.code : FaultLatch → Nat
  | .clear => 0
  | .stackOverflow => 1
  | .stackUnderflow => 2

/-- What `execute_cycle` returns to the host (R57). -/
inductive CycleStatus where
  | retired
  | waiting
  | unknown (op : Word)
  | faulted (f : FaultLatch)
  deriving DecidableEq, Repr

/-- The status that an instruction gives its cycle: `Faulted` when it raises, `Waiting` for `FX0A` with no key pressed,
else `Retired` (R57, R123, R133). -/
def instrStatus (instr : Instr) (s : State) : CycleStatus :=
  match instr with
  | .ret => if s.sp = 0 then .faulted .stackUnderflow else .retired
  | .call _ => if s.sp = s.config.stackCapacity then .faulted .stackOverflow else .retired
  | .ldVxK _ => if s.lowestKey = none then .waiting else .retired
  | _ => .retired

/-- The status that `execute_cycle` returns from state `s`; an output, stored nowhere (R55, R57, log 7). -/
def State.cycleStatus (s : State) : CycleStatus :=
  if s.fault = .clear then
    match decodeWord s.fetchWord with
    | .ok instr => instrStatus instr s
    | .error _ =>
      match s.config.unknownOpcodePolicy with
      | .diagnose => .unknown s.fetchWord
      | .silent => .retired
  else .faulted s.fault

end Sys2Proof.Machine
end

