-- ==== Sys2Proof/Machine/HostOps.lean ====
section
/-! DEFINITION. The host's operations on the core (00_scope.md R2; R141 to R146, R160, R161), and the delivery of a
cycle's inputs. -/

namespace Sys2Proof.Machine

/-- One counter's tick: never below 0 (R141). -/
def tickDown (b : Byte) : Byte := if b = 0 then 0 else b - 1

/-- `tick_timers()` (R141). -/
def State.tickTimers (s : State) : State := { s with dt := tickDown s.dt, st := tickDown s.st }

/-- One event of the host between cycles; it acts whatever the run-state is (R141, R144, D33). -/
def State.hostEvent (s : State) : HostEvent → State
  | .tickTimers => s.tickTimers
  | .setKey k pressed => s.setKey k pressed

/-- The start of a cycle: the host events before it happen, in order, and its `rnd` input is supplied. Where the state
lists no input, no event happens and `rnd` is a free value (R4, R146, log 3, log 4). -/
def State.deliver (s : State) : State :=
  match s.inputs with
  | [] => { s with rnd := Config.freeRandomByte s.freeDraws, freeDraws := s.freeDraws + 1 }
  | c :: rest => { c.events.foldl State.hostEvent s with rnd := c.rnd, inputs := rest }

/-- The cells of the bytes `bs` placed from address `a` upward, in canonical form. -/
def programCells (font : Vector Byte 80) : Nat → List Byte → Memory
  | _, [] => []
  | a, b :: bs =>
    if b = initialByte font a then programCells font (a + 1) bs else (a, b) :: programCells font (a + 1) bs

/-- The memory after a successful `load`: everything below 0x200 kept, the program from 0x200 upward, zero after it
(R161). An unlisted address from 0x200 upward reads as zero. -/
def State.placeProgram (s : State) (rom : List Byte) : State :=
  { s with mem := s.mem.filter (fun c => c.1 < 0x200) ++ programCells s.config.font 0x200 rom }

/-- `rom` fits the program space (R161). -/
def programFits (rom : List Byte) : Bool := decide (rom.length ≤ 3584)

/-- `load(rom_bytes)`: a program that is too large changes nothing (R161). -/
def State.load (s : State) (rom : List Byte) : State := if programFits rom then s.placeProgram rom else s

/-- `init()`: the reset values of R25; the configuration stays (R23, R160), and so do the inputs, which are outside the
core (R26, log 3). -/
def State.initialise (s : State) : State :=
  { State.init s.config with rnd := s.rnd, freeDraws := s.freeDraws, inputs := s.inputs }

/-- `read_sound()` (R143, D35). -/
def State.readSound (s : State) : Bool := s.st != 0

/-- `read_display()`: the pixel grid, row first (R145). -/
def State.readDisplay (s : State) : Vector (Vector Bool 64) 32 := s.fb

/-- The seven operations of R2. -/
inductive HostOp where
  | init
  | load (rom : List Byte)
  | executeCycle (rnd : Byte)
  | tickTimers
  | setKey (k : KeyIndex) (pressed : Bool)
  | readDisplay
  | readSound
  deriving DecidableEq, Repr

/-- The outputs of the seven operations (R2). -/
inductive Reply where
  | done
  | loaded
  | programTooLarge
  | status (c : CycleStatus)
  | display (pixels : Vector (Vector Bool 64) 32)
  | sound (on : Bool)
  deriving DecidableEq, Repr

/-- The state after an operation of the host. -/
def hostOp (op : HostOp) (s : State) : Result :=
  match op with
  | .init => .next s.initialise
  | .load rom => .next (s.load rom)
  | .executeCycle rnd => executeCycle { s with rnd := rnd }
  | .tickTimers => .next s.tickTimers
  | .setKey k pressed => .next (s.setKey k pressed)
  | .readDisplay => .next s
  | .readSound => .next s

/-- What an operation of the host returns, from the state it is invoked in. -/
def hostReply (op : HostOp) (s : State) : Reply :=
  match op with
  | .init => .done
  | .load rom => if programFits rom then .loaded else .programTooLarge
  | .executeCycle rnd => .status ({ s with rnd := rnd } : State).cycleStatus
  | .tickTimers => .done
  | .setKey _ _ => .done
  | .readDisplay => .display s.readDisplay
  | .readSound => .sound s.readSound

end Sys2Proof.Machine
end

