-- ==== Sys2Proof/Machine/Step.lean ====
section
/-! DEFINITION. One step of the machine, and the placing of an instruction word where it will be fetched. -/

namespace Sys2Proof.Machine

/-- One step: the cycle's inputs arrive and `execute_cycle` runs (R4, R56). -/
def step (s : State) : Host.Outcome State Fault Refusal := executeCycle s.deliver

/-- `s` with the word `w` stored at `PC`, high byte first (R35), and with no fault latched, since a latched fault lets
nothing be fetched (R56): the very next step runs that word (log 11). -/
def State.withFetchWord (s : State) (_nbits w : Nat) : State :=
  (({ s with fault := .clear } : State).memWrite s.pc.toNat (highByte (BitVec.ofNat 16 w))).memWrite
    (s.pc.toNat + 1) (lowByte (BitVec.ofNat 16 w))

end Sys2Proof.Machine
end

