-- ==== Sys2Proof/Safety.lean ====
section
/-! DEFINITION. What counts as a legal and as a safe state, and how a run's end is observed (10_state.md section 9,
R133, D30). -/

namespace Sys2Proof.Machine

/-- The invariant of the reachable states (10_state.md section 9, R13, R14, R15): `PC` and `I` keep bits 15:12 at 0, the
depth never exceeds the capacity, every entry in use is an address, memory has its canonical form. The ranges of `V`,
`DT`, `ST`, `KEY`, `FB` and `FAULT` are their types. -/
structure State.Inv (s : State) : Prop where
  pc_lt : s.pc.toNat < 4096
  i_lt : s.i.toNat < 4096
  depth_le : s.sp ≤ s.config.stackCapacity
  entries_lt : ∀ a ∈ s.stack, a.toNat < 4096
  mem_wf : Memory.wf s.config.font s.mem

/-- No fault is latched: a faulted state is never a good state of a run (R133). -/
abbrev State.Safe (s : State) : Prop := s.fault = .clear

/-- The key wait: the word at `PC` is an `FX0A` and no key is pressed (R123, D11). -/
def State.KeyWait (s : State) : Prop :=
  s.fault = .clear ∧ s.lowestKey = none ∧ ∃ x, decodeWord s.fetchWord = .ok (.ldVxK x)

/-- The word at `PC` is a jump to itself, the customary end of a program (00_scope.md section 4.1, D30; PRESUMED, log 12:
the spec marks it as general knowledge). -/
def State.SelfJump (s : State) : Prop := s.fault = .clear ∧ decodeWord s.fetchWord = .ok (.jp s.pc.toNat)

/-- The sprite as a picture on the screen: whether pixel `(px, py)` lies under a 1 bit of the `n`-row sprite at `I` drawn
with origin `(x0, y0)` (R111). Clipping is that `px` and `py` range over the screen only. -/
def State.spriteBit (s : State) (x0 y0 n : Nat) (px : Fin 64) (py : Fin 32) : Bool :=
  decide (x0 ≤ px.val ∧ px.val < x0 + 8 ∧ y0 ≤ py.val ∧ py.val < y0 + n) &&
    (s.memRead (s.dataAddr (py.val - y0))).getLsbD (7 - (px.val - x0))

/-- `t` is reached from `s` by some number of steps. -/
inductive Reaches : State → State → Prop where
  | refl (s : State) : Reaches s s
  | tail {s t u : State} : Reaches s t → step t = .next u → Reaches s u

end Sys2Proof.Machine
end

