-- ==== Sys2Proof/Certificates/Slice0/Obligations.lean ====
section
/-! DEFINITION. The statements for the provers. Each docstring names the rules of spec/ it formalises and, where it rests
on a decision that the spec marks as its own (D<n>) or on a choice of the model (log <n>), says so. -/

namespace Sys2Proof.Claims

open Sys2Proof.Machine

/-- A row of R54: every word with `op &&& mask = bits` decodes to the instruction with that word's operand fields. -/
def DecodesRow (bits mask : Word) (instr : Word → Instr) : Prop :=
  ∀ op : Word, op &&& mask = bits → decodeWord op = .ok (instr op)

/-- Every byte of memory reads as before. -/
def KeepsMemory (s t : State) : Prop := ∀ a, t.memRead a = s.memRead a

/-- Nothing but general registers and `PC` differs: not `I`, the stack, the timers, the keys, the display, the latch,
the configuration or the inputs, and no byte of memory. -/
def OnlyRegsAndPc (s t : State) : Prop := t = { s with v := t.v, pc := t.pc } ∧ KeepsMemory s t

/-- `i` completes from `s`, each register then holds what `new` says, and nothing else but `PC` changes. -/
def WritesRegs (i : Instr) (s : State) (new : Reg → Byte) : Prop :=
  ∃ t, exec i s = .next t ∧ (∀ r, t.getV r = new r) ∧ OnlyRegsAndPc s t

/-- `i` completes from `s` and changes nothing but `PC`, which moves `d` bytes on, modulo 4096. -/
def MovesPc (i : Instr) (s : State) (d : Nat) : Prop :=
  exec i s = .next { s with pc := BitVec.ofNat 16 ((s.pc.toNat + d) % 4096) }

/-- The key numbered by the full value of `VX` is pressed (R120). -/
def KeyPressed (s : State) (x : Reg) : Prop := ∃ k : KeyIndex, (s.getV x).toNat = k.val ∧ s.getKey k = true

/-- The instructions whose rules never assign `pc` (R56 (c), the first row of R14's table). -/
def assignsNoPc : Instr → Bool
  | .cls => true
  | .ret => false
  | .jp _ => false
  | .call _ => false
  | .seImm _ _ => false
  | .sneImm _ _ => false
  | .seReg _ _ => false
  | .ldImm _ _ => true
  | .addImm _ _ => true
  | .ldReg _ _ => true
  | .or _ _ => true
  | .and _ _ => true
  | .xor _ _ => true
  | .addReg _ _ => true
  | .sub _ _ => true
  | .shr _ _ => true
  | .subn _ _ => true
  | .shl _ _ => true
  | .sneReg _ _ => false
  | .ldI _ => true
  | .jpV0 _ => false
  | .rnd _ _ => true
  | .drw _ _ _ => true
  | .skp _ => false
  | .sknp _ => false
  | .ldVxDt _ => true
  | .ldVxK _ => false
  | .ldDtVx _ => true
  | .ldStVx _ => true
  | .addIVx _ => true
  | .ldFVx _ => true
  | .ldBVx _ => true
  | .ldMemVx _ => true
  | .ldVxMem _ => true

/-- The general registers an instruction may write (the table of R10, with R11 for `VF`). -/
def mayWriteReg : Instr → Reg → Prop
  | .cls, _ => False
  | .ret, _ => False
  | .jp _, _ => False
  | .call _, _ => False
  | .seImm _ _, _ => False
  | .sneImm _ _, _ => False
  | .seReg _ _, _ => False
  | .ldImm x _, r => r = x
  | .addImm x _, r => r = x
  | .ldReg x _, r => r = x
  | .or x _, r => r = x
  | .and x _, r => r = x
  | .xor x _, r => r = x
  | .addReg x _, r => r = x ∨ r = vf
  | .sub x _, r => r = x ∨ r = vf
  | .shr x _, r => r = x ∨ r = vf
  | .subn x _, r => r = x ∨ r = vf
  | .shl x _, r => r = x ∨ r = vf
  | .sneReg _ _, _ => False
  | .ldI _, _ => False
  | .jpV0 _, _ => False
  | .rnd x _, r => r = x
  | .drw _ _ _, r => r = vf
  | .skp _, _ => False
  | .sknp _, _ => False
  | .ldVxDt x, r => r = x
  | .ldVxK x, r => r = x
  | .ldDtVx _, _ => False
  | .ldStVx _, _ => False
  | .addIVx _, r => r = vf
  | .ldFVx _, _ => False
  | .ldBVx _, _ => False
  | .ldMemVx _, _ => False
  | .ldVxMem x, r => r ≤ x

/-- The host operation that an event of a run's schedule stands for (R2, R4). -/
def eventOp : HostEvent → HostOp
  | .tickTimers => .tickTimers
  | .setKey k pressed => .setKey k pressed

/-- Host operations one after the other, stopping where one does not answer a next state. -/
def runOps : List HostOp → State → Result
  | [], s => .next s
  | op :: ops, s =>
    match hostOp op s with
    | .next t => runOps ops t
    | .fault r => .fault r
    | .refused r => .refused r

end Sys2Proof.Claims

open Sys2Proof Sys2Proof.Machine Sys2Proof.Claims

/-! ### Encoding -/

/-- Decoding the bytes of a well-formed instruction gives it back, whatever follows them (R50 to R54; strict masks D15). -/
def Obligations.DecodeOfEncodeIsTheInstruction : Prop :=
  ∀ (i : Instr) (rest : List Byte), i.wellFormed = true → decodeBytes (encodeBytes i ++ rest) = .ok (i, rest)

/-- Each assigned word has one meaning and is that instruction's encoding, so decoding drops no bit (R51 to R54; D15). -/
def Obligations.EncodeOfDecodeIsTheWord : Prop :=
  ∀ (op : Word) (i : Instr), decodeWord op = .ok i → i.wellFormed = true ∧ encode i = op

/-- The decoder selects exactly the row of the opcode table whose pattern the word matches, and rejects, as unassigned,
exactly the words that match no row (R54, R55; D15). -/
def Obligations.DecodeSelectsTheMatchingRow : Prop :=
  ∀ op : Word,
    (∀ i, decodeWord op = .ok i → ∃ r ∈ opcodeTable, r.mnemonic = i.mnemonic ∧ r.matches op = true) ∧
    (∀ r ∈ opcodeTable, r.matches op = true → ∃ i, decodeWord op = .ok i ∧ i.mnemonic = r.mnemonic) ∧
    (∀ e, decodeWord op = .error e → e = .unassigned op)

/-- The rows' patterns are disjoint: no word matches two (R54; D15). -/
def Obligations.OpcodeRowsAreDisjoint : Prop :=
  ∀ op : Word, ∀ r ∈ opcodeTable, ∀ q ∈ opcodeTable, r.matches op = true → q.matches op = true → r = q

/-- The unassigned encodings are exactly those of R55's table (D15 for the strict masks). -/
def Obligations.UnassignedWordsAreThoseOfTheTable : Prop :=
  ∀ op : Word, decodeWord op = .error (.unassigned op) ↔
    (fieldF op = 0x0 ∧ fieldNNN op ≠ 0x0E0 ∧ fieldNNN op ≠ 0x0EE) ∨
    (fieldF op = 0x5 ∧ fieldN op ≠ 0) ∨
    (fieldF op = 0x8 ∧ fieldN op ∈ [0x8, 0x9, 0xA, 0xB, 0xC, 0xD, 0xF]) ∨
    (fieldF op = 0x9 ∧ fieldN op ≠ 0) ∨
    (fieldF op = 0xE ∧ fieldNN op ∉ [0x9E, 0xA1]) ∨
    (fieldF op = 0xF ∧ fieldNN op ∉ [0x07, 0x0A, 0x15, 0x18, 0x1E, 0x29, 0x33, 0x55, 0x65])

/-- Words written out from R54 decode to the instructions they stand for, operands in their places. -/
def Obligations.WrittenOutWordsDecode : Prop :=
  decodeBytes [0x00, 0xEE] = .ok (.ret, []) ∧
  decodeBytes [0x2A, 0xBC] = .ok (.call 0xABC, []) ∧
  decodeBytes [0x37, 0x2A] = .ok (.seImm 7 0x2A, []) ∧
  decodeBytes [0x81, 0x25] = .ok (.sub 1 2, []) ∧
  decodeBytes [0x8A, 0xBE] = .ok (.shl 0xA 0xB, []) ∧
  decodeBytes [0xCD, 0x0F] = .ok (.rnd 0xD 0x0F, []) ∧
  decodeBytes [0xD1, 0x25] = .ok (.drw 1 2 5, []) ∧
  decodeBytes [0xE3, 0xA1] = .ok (.sknp 3, []) ∧
  decodeBytes [0xF4, 0x1E] = .ok (.addIVx 4, []) ∧
  decodeBytes [0xF2, 0x65] = .ok (.ldVxMem 2, [])

/-! ### Fetch and the cycle -/

/-- Instruction fetch is big-endian: `MEM[PC]` supplies `op[15:8]` and the next byte, whose address wraps, `op[7:0]` (R35;
that the second address wraps modulo 4096 is D2, log 9). -/
def Obligations.FetchIsBigEndian : Prop :=
  ∀ s : State,
    s.fetchWord.toNat = (s.memRead s.pc.toNat).toNat * 256 + (s.memRead ((s.pc.toNat + 1) % 4096)).toNat ∧
    fieldF s.fetchWord * 16 + (fieldX s.fetchWord).val = (s.memRead s.pc.toNat).toNat ∧
    (fieldY s.fetchWord).val * 16 + fieldN s.fetchWord = (s.memRead ((s.pc.toNat + 1) % 4096)).toNat ∧
    fieldNN s.fetchWord = (s.memRead ((s.pc.toNat + 1) % 4096)).toNat

/-- A step runs the decoded instruction: with no fault latched, the two bytes at `PC` are decoded and `exec` runs that
instruction on the state with the cycle's inputs delivered. In every state, faulted or not and whatever the word at `PC`
is, delivery changes timers, keys and the input fields alone, and with no input listed the fields `rnd` and `freeDraws`
alone (R56, R4; how inputs reach a cycle is the model's choice, log 3, log 4). -/
def Obligations.StepRunsTheDecodedInstruction : Prop :=
  (∀ (s : State) (i : Instr), s.fault = .clear →
    decodeBytes [s.memRead s.pc.toNat, s.memRead (s.pc.toNat + 1)] = .ok (i, []) →
    step s = exec i s.deliver) ∧
  (∀ s : State, s.deliver = { s with
    dt := s.deliver.dt, st := s.deliver.st, keys := s.deliver.keys,
    rnd := s.deliver.rnd, freeDraws := s.deliver.freeDraws, inputs := s.deliver.inputs }) ∧
  (∀ s : State, s.inputs = [] →
    s.deliver = { s with rnd := s.deliver.rnd, freeDraws := s.deliver.freeDraws })

/-- An unassigned encoding is a no-op with the normal advance; the status depends on the policy (R55, R134; D19, D31).
What `deliver` may change is the second clause of `StepRunsTheDecodedInstruction`. -/
def Obligations.UnassignedWordOnlyAdvancesPc : Prop :=
  ∀ (s : State) (e : DecodeError), s.fault = .clear → decodeWord s.fetchWord = .error e →
    step s = .next { s.deliver with pc := BitVec.ofNat 16 ((s.pc.toNat + 2) % 4096) } ∧
    (s.config.unknownOpcodePolicy = .diagnose → s.cycleStatus = .unknown s.fetchWord) ∧
    (s.config.unknownOpcodePolicy = .silent → s.cycleStatus = .retired)

/-- Every step from every state answers a next state: nothing else raises anything, and a stack fault leaves a state
(R130, R133, R135; that the faults are next states is the model's choice, log 8). -/
def Obligations.EveryStepAnswersANextState : Prop :=
  ∀ s : State, ∃ t, step s = .next t

/-- A word placed at `PC` is what the very next step runs (R35, R42; the wrap of the second address is D2, log 9;
`withFetchWord` is the model's, log 11). -/
def Obligations.StoredWordIsRunByTheNextStep : Prop :=
  ∀ (s : State) (nbits w : Nat) (i : Instr), s.Inv → decodeTableWord nbits w = some i →
    step (s.withFetchWord nbits w) = exec i (s.withFetchWord nbits w).deliver

/-! ### Control flow -/

/-- `00EE` pops the newest return address into `PC`; on an empty stack it raises StackUnderflow, which changes the latch
alone (R70; the latch is D8, that a faulting cycle changes it alone is D9, that it is a next state is the model's choice,
log 8). An entry in use is an address in every state of the invariant `StepKeepsTheInvariant` states. -/
def Obligations.RetPopsTheNewestReturnAddress : Prop :=
  DecodesRow 0x00EE 0xFFFF (fun _ => .ret) ∧
  (∀ (s : State) (below : List Word) (a : Word), s.stack = below ++ [a] → a.toNat < 4096 →
    exec .ret s = .next { s with stack := below, pc := a }) ∧
  (∀ s : State, s.stack = [] → exec .ret s = .next { s with fault := .stackUnderflow })

/-- `1NNN` sets `PC` and nothing else (R71). -/
def Obligations.JpSetsPcAlone : Prop :=
  DecodesRow 0x1000 0xF000 (fun op => .jp (fieldNNN op)) ∧
  ∀ (nnn : Nat) (s : State), nnn < 4096 → exec (.jp nnn) s = .next { s with pc := BitVec.ofNat 16 nnn }

/-- `2NNN` pushes the advanced `PC` and jumps; on a full stack it raises StackOverflow, which changes the latch alone
(R72; the wrap of the pushed address is D31, log 9; the latch is D8, that a faulting cycle changes it alone is D9, that it
is a next state is the model's choice, log 8). -/
def Obligations.CallPushesTheAdvancedPc : Prop :=
  DecodesRow 0x2000 0xF000 (fun op => .call (fieldNNN op)) ∧
  (∀ (nnn : Nat) (s : State), nnn < 4096 → s.stack.length ≠ s.config.stackCapacity →
    exec (.call nnn) s = .next { s with
      stack := s.stack ++ [BitVec.ofNat 16 ((s.pc.toNat + 2) % 4096)], pc := BitVec.ofNat 16 nnn }) ∧
  (∀ (nnn : Nat) (s : State), s.stack.length = s.config.stackCapacity →
    exec (.call nnn) s = .next { s with fault := .stackOverflow })

/-- `3XNN` and `4XNN` skip by exactly one instruction on their comparison and change nothing but `PC` (R73, R74;
the reduction modulo 4096 of the skip and of the advance is D31, log 9). -/
def Obligations.ImmediateSkipsMovePcAlone : Prop :=
  DecodesRow 0x3000 0xF000 (fun op => .seImm (fieldX op) (immNN op)) ∧
  DecodesRow 0x4000 0xF000 (fun op => .sneImm (fieldX op) (immNN op)) ∧
  ∀ (x : Reg) (nn : Byte) (s : State),
    MovesPc (.seImm x nn) s (if s.getV x = nn then 4 else 2) ∧
    MovesPc (.sneImm x nn) s (if s.getV x = nn then 2 else 4)

/-- `5XY0` and `9XY0` skip by exactly one instruction on their comparison and change nothing but `PC`; in both families
a word whose `N` is not 0 is unassigned (R75, R76; the strict masks are D15 and the reduction modulo 4096 of the skip and
of the advance is D31, log 9). -/
def Obligations.RegisterSkipsMovePcAlone : Prop :=
  DecodesRow 0x5000 0xF00F (fun op => .seReg (fieldX op) (fieldY op)) ∧
  DecodesRow 0x9000 0xF00F (fun op => .sneReg (fieldX op) (fieldY op)) ∧
  (∀ op : Word, (fieldF op = 0x5 ∨ fieldF op = 0x9) → fieldN op ≠ 0 → decodeWord op = .error (.unassigned op)) ∧
  ∀ (x y : Reg) (s : State),
    MovesPc (.seReg x y) s (if s.getV x = s.getV y then 4 else 2) ∧
    MovesPc (.sneReg x y) s (if s.getV x = s.getV y then 2 else 4)

/-- `BNNN` jumps to `V0 + NNN` modulo 4096, whatever its `X` nibble (R77; the reduction is D31). -/
def Obligations.JpV0JumpsToV0PlusAddress : Prop :=
  DecodesRow 0xB000 0xF000 (fun op => .jpV0 (fieldNNN op)) ∧
  ∀ (nnn : Nat) (s : State),
    exec (.jpV0 nnn) s = .next { s with pc := BitVec.ofNat 16 (((s.getV 0).toNat + nnn) % 4096) }

/-- A call, then a return with the stack as the call left it, comes back to the instruction after the call, with the
stack as before (R70, R72, the source's property E3; the wrap of the pushed address is D31, log 9). -/
def Obligations.CallThenRetReturnsAfterTheCall : Prop :=
  ∀ (nnn : Nat) (s t u w : State), s.stack.length < s.config.stackCapacity → exec (.call nnn) s = .next t →
    u.stack = t.stack → exec .ret u = .next w →
    w.pc.toNat = (s.pc.toNat + 2) % 4096 ∧ w.stack = s.stack

/-! ### Load, arithmetic, logic, shift, random -/

/-- `6XNN`, `7XNN` and `8XY0` write `VX` alone; `7XNN` wraps modulo 256 and leaves `VF` (R80, R81, R82). -/
def Obligations.LoadsAndImmediateAddWriteVxAlone : Prop :=
  DecodesRow 0x6000 0xF000 (fun op => .ldImm (fieldX op) (immNN op)) ∧
  DecodesRow 0x7000 0xF000 (fun op => .addImm (fieldX op) (immNN op)) ∧
  DecodesRow 0x8000 0xF00F (fun op => .ldReg (fieldX op) (fieldY op)) ∧
  (∀ (x : Reg) (nn : Byte) (s : State),
    WritesRegs (.ldImm x nn) s (fun r => if r = x then nn else s.getV r) ∧
    WritesRegs (.addImm x nn) s
      (fun r => if r = x then BitVec.ofNat 8 (((s.getV x).toNat + nn.toNat) % 256) else s.getV r)) ∧
  (∀ (x y : Reg) (s : State), WritesRegs (.ldReg x y) s (fun r => if r = x then s.getV y else s.getV r))

/-- `8XY1`, `8XY2`, `8XY3` are bitwise into `VX` alone; they leave `VF`, unless `X = F` (R83, R84, R85; D29). -/
def Obligations.LogicWritesVxAlone : Prop :=
  DecodesRow 0x8001 0xF00F (fun op => .or (fieldX op) (fieldY op)) ∧
  DecodesRow 0x8002 0xF00F (fun op => .and (fieldX op) (fieldY op)) ∧
  DecodesRow 0x8003 0xF00F (fun op => .xor (fieldX op) (fieldY op)) ∧
  ∀ (x y : Reg) (s : State),
    WritesRegs (.or x y) s (fun r => if r = x then s.getV x ||| s.getV y else s.getV r) ∧
    WritesRegs (.and x y) s (fun r => if r = x then s.getV x &&& s.getV y else s.getV r) ∧
    WritesRegs (.xor x y) s (fun r => if r = x then s.getV x ^^^ s.getV y else s.getV r)

/-- `8XY4`: the sum modulo 256 into `VX`, then the carry into `VF`, both from the old operands (R86; that `VF`
is written last, so that it ends as the carry when `X = F`, is D16, log 9). -/
def Obligations.AddWritesSumThenCarry : Prop :=
  DecodesRow 0x8004 0xF00F (fun op => .addReg (fieldX op) (fieldY op)) ∧
  ∀ (x y : Reg) (s : State),
    WritesRegs (.addReg x y) s (fun r =>
      if r = vf then if (s.getV x).toNat + (s.getV y).toNat > 255 then 1 else 0
      else if r = x then BitVec.ofNat 8 (((s.getV x).toNat + (s.getV y).toNat) % 256)
      else s.getV r)

/-- `8XY5` and `8XY7`: the difference modulo 256 into `VX`, then NOT borrow into `VF`, both from the old operands
(R87, R89; the reduction of R89 is R93; that `VF` is written last, so that it ends as the flag when `X = F`, is D16,
log 9). -/
def Obligations.SubtractsWriteDifferenceThenNotBorrow : Prop :=
  DecodesRow 0x8005 0xF00F (fun op => .sub (fieldX op) (fieldY op)) ∧
  DecodesRow 0x8007 0xF00F (fun op => .subn (fieldX op) (fieldY op)) ∧
  ∀ (x y : Reg) (s : State),
    WritesRegs (.sub x y) s (fun r =>
      if r = vf then if (s.getV x).toNat ≥ (s.getV y).toNat then 1 else 0
      else if r = x then BitVec.ofInt 8 (((s.getV x).toNat - (s.getV y).toNat : Int) % 256)
      else s.getV r) ∧
    WritesRegs (.subn x y) s (fun r =>
      if r = vf then if (s.getV y).toNat ≥ (s.getV x).toNat then 1 else 0
      else if r = x then BitVec.ofInt 8 (((s.getV y).toNat - (s.getV x).toNat : Int) % 256)
      else s.getV r)

/-- `8XY6` and `8XYE` shift the operand that SHIFT_SOURCE selects by one into `VX`, then the bit shifted out into `VF`,
under both settings (R88, R90; the destination under `VY` is D18, that `VF` is written last D16, log 9). -/
def Obligations.ShiftsWriteResultThenBitShiftedOut : Prop :=
  DecodesRow 0x8006 0xF00F (fun op => .shr (fieldX op) (fieldY op)) ∧
  DecodesRow 0x800E 0xF00F (fun op => .shl (fieldX op) (fieldY op)) ∧
  ∀ (x y : Reg) (s : State) (b : Byte),
    (s.config.shiftSource = .vx ∧ b = s.getV x) ∨ (s.config.shiftSource = .vy ∧ b = s.getV y) →
    WritesRegs (.shr x y) s (fun r =>
      if r = vf then BitVec.ofNat 8 (b.toNat % 2)
      else if r = x then BitVec.ofNat 8 (b.toNat / 2)
      else s.getV r) ∧
    WritesRegs (.shl x y) s (fun r =>
      if r = vf then BitVec.ofNat 8 (b.toNat / 128)
      else if r = x then BitVec.ofNat 8 (b.toNat * 2 % 256)
      else s.getV r)

/-- `CXNN` writes the cycle's random byte under the mask, for every value of that byte; the byte is the cycle's listed
input, or the free value where none is listed (R91, R146; D21; how the byte is supplied is the model's choice, log 3). -/
def Obligations.RndWritesTheMaskedRandomByte : Prop :=
  DecodesRow 0xC000 0xF000 (fun op => .rnd (fieldX op) (immNN op)) ∧
  (∀ (x : Reg) (nn : Byte) (s : State),
    WritesRegs (.rnd x nn) s (fun r => if r = x then s.rnd &&& nn else s.getV r)) ∧
  (∀ (s : State) (c : CycleInput) (rest : List CycleInput), s.inputs = c :: rest →
    s.deliver.rnd = c.rnd ∧ s.deliver.inputs = rest) ∧
  (∀ s : State, s.inputs = [] →
    s.deliver.rnd = Config.freeRandomByte s.freeDraws ∧ s.deliver.freeDraws = s.freeDraws + 1)

/-! ### Index and memory -/

/-- `ANNN` sets `I` to the 12-bit address and changes nothing else but `PC` (R100). -/
def Obligations.LdISetsTheIndex : Prop :=
  DecodesRow 0xA000 0xF000 (fun op => .ldI (fieldNNN op)) ∧
  ∀ (nnn : Nat) (s : State), nnn < 4096 →
    ∃ t, exec (.ldI nnn) s = .next t ∧ t.i.toNat = nnn ∧ t = { s with i := t.i, pc := t.pc } ∧ KeepsMemory s t

/-- `FX1E` adds `VX` to `I` modulo 4096, sets `VF` to 1 exactly when the sum passes 0xFFF, and otherwise leaves `VF`
(R101; the reduction is D4, the old `VF` as operand D32). -/
def Obligations.AddIWrapsAndFlagsOverflow : Prop :=
  DecodesRow 0xF01E 0xF0FF (fun op => .addIVx (fieldX op)) ∧
  ∀ (x : Reg) (s : State),
    ∃ t, exec (.addIVx x) s = .next t ∧
      t.i.toNat = (s.i.toNat + (s.getV x).toNat) % 4096 ∧
      (∀ r, t.getV r = if r = vf ∧ s.i.toNat + (s.getV x).toNat > 0xFFF then 1 else s.getV r) ∧
      t = { s with v := t.v, i := t.i, pc := t.pc } ∧ KeepsMemory s t

/-- `FX29` sets `I` to five times the whole of `VX`, unmasked (R102; above 15 this is D14). -/
def Obligations.LdFSetsTheGlyphAddress : Prop :=
  DecodesRow 0xF029 0xF0FF (fun op => .ldFVx (fieldX op)) ∧
  ∀ (x : Reg) (s : State),
    ∃ t, exec (.ldFVx x) s = .next t ∧ t.i.toNat = (s.getV x).toNat * 5 ∧
      t = { s with i := t.i, pc := t.pc } ∧ KeepsMemory s t

/-- `FX33` stores the three decimal digits of `VX` at `I`, `I + 1`, `I + 2`, each address modulo 4096; every other byte,
and everything but `PC`, is unchanged (R103; the wrap is D2, the store into any address D6, that `I` stays D29, log 9). The
premise is the invariant that `StepKeepsTheInvariant` states. -/
def Obligations.BcdStoresTheDecimalDigits : Prop :=
  DecodesRow 0xF033 0xF0FF (fun op => .ldBVx (fieldX op)) ∧
  ∀ (x : Reg) (s : State), s.Inv →
    (∀ k, s.dataAddr k = (s.i.toNat + k) % 4096) ∧
    ∃ t, exec (.ldBVx x) s = .next t ∧
      (t.memRead (s.dataAddr 0)).toNat = (s.getV x).toNat / 100 ∧
      (t.memRead (s.dataAddr 1)).toNat = (s.getV x).toNat / 10 % 10 ∧
      (t.memRead (s.dataAddr 2)).toNat = (s.getV x).toNat % 10 ∧
      (∀ a, a < 4096 → (∀ k, k < 3 → a ≠ s.dataAddr k) → t.memRead a = s.memRead a) ∧
      t = { s with mem := t.mem, pc := t.pc }

/-- `FX55` stores `V0` to `VX` at `I` to `I + X`, each address modulo 4096; every other byte, and everything but `PC`, is
unchanged (R104; the wrap is D2, that `I` stays D29, log 9). The premise is the invariant that `StepKeepsTheInvariant` states. -/
def Obligations.RegisterDumpStoresV0ToVx : Prop :=
  DecodesRow 0xF055 0xF0FF (fun op => .ldMemVx (fieldX op)) ∧
  ∀ (x : Reg) (s : State), s.Inv →
    (∀ k, s.dataAddr k = (s.i.toNat + k) % 4096) ∧
    ∃ t, exec (.ldMemVx x) s = .next t ∧
      (∀ r : Reg, r ≤ x → t.memRead (s.dataAddr r.val) = s.getV r) ∧
      (∀ a, a < 4096 → (∀ r : Reg, r ≤ x → a ≠ s.dataAddr r.val) → t.memRead a = s.memRead a) ∧
      t = { s with mem := t.mem, pc := t.pc }

/-- `FX65` loads `V0` to `VX` from `I` to `I + X`, each address modulo 4096, and changes nothing else but `PC` (R105;
the wrap is D2, that `I` stays D29, log 9). -/
def Obligations.RegisterLoadReadsV0ToVx : Prop :=
  DecodesRow 0xF065 0xF0FF (fun op => .ldVxMem (fieldX op)) ∧
  ∀ (x : Reg) (s : State),
    WritesRegs (.ldVxMem x) s
      (fun r => if r ≤ x then s.memRead ((s.i.toNat + r.val) % 4096) else s.getV r)

/-- `FX55`, then `FX65` with the same `X`, `I` and memory, gives back `V0` to `VX`, also across the wrap at 0xFFF
(R104, R105, the source's property E6; the wrap is D2, that `FX55` leaves `I` is D29, log 9). -/
def Obligations.DumpThenLoadGivesTheRegistersBack : Prop :=
  ∀ (x : Reg) (s t u w : State), s.Inv → exec (.ldMemVx x) s = .next t →
    u.i = t.i → KeepsMemory t u → exec (.ldVxMem x) u = .next w →
    ∀ r : Reg, r ≤ x → w.getV r = s.getV r

/-! ### Display -/

/-- `00E0` clears every pixel and changes nothing else but `PC`; `VF` is not written (R110). -/
def Obligations.ClsClearsEveryPixel : Prop :=
  DecodesRow 0x00E0 0xFFFF (fun _ => .cls) ∧
  ∀ s : State,
    ∃ t, exec .cls s = .next t ∧ (∀ px py, t.getPixel px py = false) ∧
      t = { s with fb := t.fb, pc := t.pc } ∧ KeepsMemory s t

/-- `DXYN` toggles exactly the on-screen pixels under a 1 bit of the sprite, from the origin of the old registers, and
sets `VF` to 1 when one of them was set, else to 0; nothing else but `PC` changes (R111; old `VF` as origin and `N = 0`
are D17, the wrap of the sprite's address D2, that `I` stays D29, log 9). -/
def Obligations.DrwTogglesTheSpriteAndReportsCollision : Prop :=
  DecodesRow 0xD000 0xF000 (fun op => .drw (fieldX op) (fieldY op) (fieldN op)) ∧
  ∀ (x y : Reg) (n : Nat) (s : State),
    ∃ t, exec (.drw x y n) s = .next t ∧
      (∀ px py, t.getPixel px py =
        (s.getPixel px py ^^ s.spriteBit ((s.getV x).toNat % 64) ((s.getV y).toNat % 32) n px py)) ∧
      ((∃ px py, s.spriteBit ((s.getV x).toNat % 64) ((s.getV y).toNat % 32) n px py = true ∧
        s.getPixel px py = true) → t.getV vf = 1) ∧
      ((∀ px py, s.spriteBit ((s.getV x).toNat % 64) ((s.getV y).toNat % 32) n px py = true →
        s.getPixel px py = false) → t.getV vf = 0) ∧
      (∀ r, r ≠ vf → t.getV r = s.getV r) ∧
      t = { s with v := t.v, fb := t.fb, pc := t.pc } ∧ KeepsMemory s t

/-- Drawing the same sprite twice at the same origin restores the display, and the second draw reports a collision
exactly when a 1 bit on the screen met a clear pixel the first time (R111's pseudocode; its remark on the second draw
holds where no covered pixel was set before, log 13). -/
def Obligations.DrawingTwiceRestoresTheDisplay : Prop :=
  ∀ (x y x' y' : Reg) (n : Nat) (s t w : State),
    exec (.drw x y n) s = .next t → t.originX x' = s.originX x → t.originY y' = s.originY y →
    exec (.drw x' y' n) t = .next w →
    (∀ px py, w.getPixel px py = s.getPixel px py) ∧
    (w.getV vf = 1 ↔ ∃ px py, s.spriteBit (s.originX x) (s.originY y) n px py = true ∧ s.getPixel px py = false)

/-! ### Keypad and timers -/

/-- `EX9E` and `EXA1` skip on the key numbered by the full value of `VX` and change nothing but `PC`; a value above 15
names no key (R120, R121; D13; the reduction modulo 4096 is D31, log 9). -/
def Obligations.KeySkipsMovePcAlone : Prop :=
  DecodesRow 0xE09E 0xF0FF (fun op => .skp (fieldX op)) ∧
  DecodesRow 0xE0A1 0xF0FF (fun op => .sknp (fieldX op)) ∧
  ∀ (x : Reg) (s : State),
    (KeyPressed s x → MovesPc (.skp x) s 4 ∧ MovesPc (.sknp x) s 2) ∧
    (¬ KeyPressed s x → MovesPc (.skp x) s 2 ∧ MovesPc (.sknp x) s 4)

/-- `FX07` reads `DT` into `VX`; `FX15` and `FX18` write `VX` to `DT` and to `ST`; nothing else but `PC` changes
(R122, R124, R125; the advance modulo 4096 is D31). -/
def Obligations.TimerInstructionsMoveOneByte : Prop :=
  DecodesRow 0xF007 0xF0FF (fun op => .ldVxDt (fieldX op)) ∧
  DecodesRow 0xF015 0xF0FF (fun op => .ldDtVx (fieldX op)) ∧
  DecodesRow 0xF018 0xF0FF (fun op => .ldStVx (fieldX op)) ∧
  ∀ (x : Reg) (s : State),
    WritesRegs (.ldVxDt x) s (fun r => if r = x then s.dt else s.getV r) ∧
    exec (.ldDtVx x) s = .next { s with dt := s.getV x, pc := BitVec.ofNat 16 ((s.pc.toNat + 2) % 4096) } ∧
    exec (.ldStVx x) s = .next { s with st := s.getV x, pc := BitVec.ofNat 16 ((s.pc.toNat + 2) % 4096) }

/-- `FX0A` with no key pressed changes nothing at all; with a key pressed it stores the lowest pressed index and
advances (R123; no stored wait and lowest index are D11, D12; the reduction modulo 4096 is D31,
log 9). -/
def Obligations.KeyWaitHoldsThenStoresTheLowestKey : Prop :=
  DecodesRow 0xF00A 0xF0FF (fun op => .ldVxK (fieldX op)) ∧
  (∀ (x : Reg) (s : State), (∀ k, s.getKey k = false) → exec (.ldVxK x) s = .next s) ∧
  (∀ (x : Reg) (s : State) (k : KeyIndex), s.getKey k = true → (∀ j, j < k → s.getKey j = false) →
    ∃ t, exec (.ldVxK x) s = .next t ∧ (∀ r, t.getV r = if r = x then BitVec.ofNat 8 k.val else s.getV r) ∧
      t.pc.toNat = (s.pc.toNat + 2) % 4096 ∧ OnlyRegsAndPc s t)

/-! ### Rules about the whole machine -/

/-- An instruction whose rule does not assign `pc` leaves it at `npc`, from every state (R14, R56 (c); D31). -/
def Obligations.PcAdvancesUnlessTheRuleAssignsIt : Prop :=
  ∀ (i : Instr) (s t : State), assignsNoPc i = true → exec i s = .next t →
    t.pc.toNat = (s.pc.toNat + 2) % 4096

/-- A general register changes only where R10's table lists it as written by the instruction; `VF` among them only where
R11 lists it or `X` names it (R10, R11). -/
def Obligations.RegistersChangeOnlyAsTheTableLists : Prop :=
  ∀ (i : Instr) (s t : State) (r : Reg), exec i s = .next t → ¬ mayWriteReg i r → t.getV r = s.getV r

/-- Of the instructions, only `FX33` and `FX55` write memory (R38). -/
def Obligations.OnlyTheStoresWriteMemory : Prop :=
  ∀ (i : Instr) (s t : State), exec i s = .next t → (∀ x, i ≠ .ldBVx x) → (∀ x, i ≠ .ldMemVx x) →
    KeepsMemory s t

/-- The display changes only by `00E0`, `DXYN` and `init`: no other instruction changes a pixel, no cycle does unless it
runs one of the two (so none that is halted by a latched fault or skips an unassigned word does), and no other operation of
the host does (R112, which the spec marks as derived). -/
def Obligations.DisplayChangesOnlyByClsDrwAndInit : Prop :=
  (∀ (i : Instr) (s t : State), exec i s = .next t → i ≠ .cls → (∀ x y n, i ≠ .drw x y n) →
    ∀ px py, t.getPixel px py = s.getPixel px py) ∧
  (∀ s t : State, executeCycle s = .next t →
    ¬ (s.fault = .clear ∧
      (decodeWord s.fetchWord = .ok .cls ∨ ∃ x y n, decodeWord s.fetchWord = .ok (.drw x y n))) →
    ∀ px py, t.getPixel px py = s.getPixel px py) ∧
  (∀ (b : Byte) (s : State), hostOp (.executeCycle b) s = executeCycle { s with rnd := b }) ∧
  (∀ (op : HostOp) (s t : State), hostOp op s = .next t → op ≠ .init → (∀ b, op ≠ .executeCycle b) →
    ∀ px py, t.getPixel px py = s.getPixel px py)

/-- Of the instructions, only `2NNN` and `00EE` touch the stack and the latch, and every entry below the top keeps its value through both
(R15, R22; the latch is D8). -/
def Obligations.StackAndLatchChangeOnlyByCallAndRet : Prop :=
  (∀ (i : Instr) (s t : State), exec i s = .next t → i ≠ .ret → (∀ nnn, i ≠ .call nnn) →
    t.stack = s.stack ∧ t.fault = s.fault) ∧
  (∀ (i : Instr) (s t : State) (k : Nat), exec i s = .next t → k < s.sp → k < t.sp →
    t.stack[k]? = s.stack[k]?)

/-- Of the instructions, `I` changes only by `ANNN`, `FX1E`, `FX29`; `DT` only by `FX15`; `ST` only by `FX18` (R13, R16, R17; that the memory
instructions leave `I` is D29). -/
def Obligations.IndexAndTimersChangeOnlyByTheirWriters : Prop :=
  ∀ (i : Instr) (s t : State), exec i s = .next t →
    ((∀ nnn, i ≠ .ldI nnn) → (∀ x, i ≠ .addIVx x) → (∀ x, i ≠ .ldFVx x) → t.i = s.i) ∧
    ((∀ x, i ≠ .ldDtVx x) → t.dt = s.dt) ∧
    ((∀ x, i ≠ .ldStVx x) → t.st = s.st)

/-- No instruction writes a key flag, and none changes the configuration (R18, R23; that the configuration is carried in
State is the model's choice, log 1). -/
def Obligations.NoInstructionWritesKeysOrConfiguration : Prop :=
  ∀ (i : Instr) (s t : State), exec i s = .next t →
    (∀ k, t.getKey k = s.getKey k) ∧ t.config = s.config

/-- The random byte is read by `CXNN` alone: every other instruction does the same whatever the byte is (R91, R146;
D21). -/
def Obligations.OnlyRndReadsTheRandomByte : Prop :=
  ∀ (i : Instr) (s t : State) (b : Byte), (∀ x nn, i ≠ .rnd x nn) → exec i s = .next t →
    exec i { s with rnd := b } = .next { t with rnd := b }

/-- No instruction reads `ST`: whatever it holds, every instruction does the same to the rest of the state, and only
`FX18` changes it (R17). -/
def Obligations.NoInstructionReadsTheSoundTimer : Prop :=
  (∀ (i : Instr) (s t : State) (b : Byte), (∀ x, i ≠ .ldStVx x) → exec i s = .next t →
    exec i { s with st := b } = .next { t with st := b }) ∧
  (∀ (x : Reg) (s : State) (b : Byte), exec (.ldStVx x) { s with st := b } = exec (.ldStVx x) s)

/-! ### Faults and status -/

/-- A latched fault halts the core until `init`: every step then changes nothing but what the host's events change and
reports the fault, no other operation of the host clears the latch, and `init` does (R56, R133, R140; D8, D10, D33). -/
def Obligations.LatchedFaultHaltsUntilInit : Prop :=
  ∀ s : State, s.fault ≠ .clear →
    step s = .next s.deliver ∧ s.cycleStatus = .faulted s.fault ∧
    (∀ (op : HostOp) (t : State), op ≠ .init → hostOp op s = .next t → t.fault = s.fault) ∧
    s.initialise.fault = .clear

/-- A faulting cycle is precise: it changes the latch alone, `PC` stays at the instruction, and the instruction is a
`2NNN` on a full stack or a `00EE` on an empty one (R130 to R133; D8, D9). -/
def Obligations.FaultingCycleChangesTheLatchAlone : Prop :=
  ∀ s t : State, s.fault = .clear → executeCycle s = .next t → t.fault ≠ .clear →
    t = { s with fault := t.fault } ∧
    ((∃ nnn, decodeWord s.fetchWord = .ok (.call nnn) ∧ s.sp = s.config.stackCapacity ∧ t.fault = .stackOverflow) ∨
     (decodeWord s.fetchWord = .ok .ret ∧ s.sp = 0 ∧ t.fault = .stackUnderflow))

/-- The status a cycle returns says what the cycle did: `Faulted(f)` exactly when `f` is latched after it, `Waiting`
exactly in the key wait, where nothing changes, `Unknown(op)` exactly for an unassigned word under `diagnose`
(R57; D27; that the key wait is no stored state is D11; that the status is computed and not stored is log 7). -/
def Obligations.StatusTellsWhatTheCycleDid : Prop :=
  ∀ s t : State, executeCycle s = .next t →
    (∀ f, s.cycleStatus = .faulted f ↔ f ≠ .clear ∧ t.fault = f) ∧
    (s.cycleStatus = .waiting ↔ s.KeyWait) ∧
    (s.cycleStatus = .waiting → t = s) ∧
    (∀ op, s.cycleStatus = .unknown op ↔
      s.fault = .clear ∧ s.config.unknownOpcodePolicy = .diagnose ∧ s.fetchWord = op ∧
      decodeWord op = .error (.unassigned op))

/-! ### Invariant, memory, reset, host -/

/-- The invariant holds at reset. -/
def Obligations.ResetMeetsTheInvariant : Prop := State.reset.Inv

/-- Every step from every state of the invariant keeps it: `PC` and `I` stay below 4096, the depth stays within the
capacity, every entry in use stays an address, memory stays canonical (R13, R14, R15, 10_state.md section 9; D3, D4; the
canonical form is the model's). -/
def Obligations.StepKeepsTheInvariant : Prop :=
  ∀ s t : State, s.Inv → step s = .next t → t.Inv

/-- Each of the host's seven operations keeps the invariant, so it holds in every state reachable from `init` by any
interleaving (R2, R4, 10_state.md section 9). -/
def Obligations.HostOperationsKeepTheInvariant : Prop :=
  ∀ (op : HostOp) (s t : State), s.Inv → hostOp op s = .next t → t.Inv

/-- Canonical memories that read alike at every address are the same data (the canonical form is the model's). -/
def Obligations.CanonicalMemoriesThatReadAlikeAreEqual : Prop :=
  ∀ (font : Vector Byte 80) (m m' : Memory), Memory.wf font m → Memory.wf font m' →
    (∀ a, a < 4096 → Memory.read font m a = Memory.read font m' a) → m = m'

/-- `init` puts every piece of state at the value R25 lists and keeps the configuration; the reset state is such a
state, with the default of each of the four parameters (R25, R160, R163; the latch is D8; the defaults of the shift
source, the policy and the capacity are D18, D19 and D20, the default `FONT` is D24, its bytes, of which those of the first and the last glyph are written out, are PRESUMED, log 5). -/
def Obligations.InitGivesTheResetValues : Prop :=
  (∀ s : State,
    ∃ t, hostOp .init s = .next t ∧ (∀ r, t.getV r = 0) ∧ t.i = 0 ∧ t.pc = 0x200 ∧ t.sp = 0 ∧ t.dt = 0 ∧ t.st = 0 ∧
      (∀ k, t.getKey k = false) ∧ (∀ px py, t.getPixel px py = false) ∧ t.fault = .clear ∧
      (∀ a : Fin 80, t.memRead a.val = s.config.font[a]) ∧
      (∀ a, 80 ≤ a → a < 4096 → t.memRead a = 0) ∧ t.config = s.config) ∧
  hostOp .init State.reset = .next State.reset ∧
  State.reset.config.stackCapacity = 16 ∧ State.reset.config.shiftSource = .vx ∧
  State.reset.config.unknownOpcodePolicy = .diagnose ∧ State.reset.config = Config.default ∧
  [0, 1, 2, 3, 4].map State.reset.memRead = [0xF0, 0x90, 0x90, 0x90, 0xF0] ∧
  [75, 76, 77, 78, 79].map State.reset.memRead = [0xF0, 0x80, 0xF0, 0x80, 0x80]

/-- `load` of a program that fits puts its bytes at 0x200, zero after them, and changes nothing else; of one that does not
fit, it changes nothing (R161; zeroing and the refused load are D25). -/
def Obligations.LoadPlacesTheProgram : Prop :=
  ∀ (s : State) (rom : List Byte),
    (rom.length ≤ 3584 → hostReply (.load rom) s = .loaded ∧
      ∃ t, hostOp (.load rom) s = .next t ∧ t = { s with mem := t.mem } ∧
        ∀ a, a < 4096 → t.memRead a = if a < 0x200 then s.memRead a else (rom[a - 0x200]?).getD 0) ∧
    (3584 < rom.length → hostReply (.load rom) s = .programTooLarge ∧ hostOp (.load rom) s = .next s)

/-- `n` ticks bring each counter down by `n`, never below 0, each on its own, and change nothing else (R141, R166; one
tick for both counters is D22). -/
def Obligations.TicksCountBothTimersDown : Prop :=
  ∀ (n : Nat) (s : State),
    ∃ t, runOps (List.replicate n .tickTimers) s = .next t ∧
      t.dt.toNat = s.dt.toNat - n ∧ t.st.toNat = s.st.toNat - n ∧ t = { s with dt := t.dt, st := t.st }

/-- `set_key` sets one flag and nothing else; the two read-outs change nothing and return the pixels and whether `ST` is
nonzero (R143, R144, R145; D28, D35). -/
def Obligations.KeySetAndReadoutsDoAsListed : Prop :=
  ∀ s : State,
    (∀ (k : KeyIndex) (pressed : Bool),
      ∃ t, hostOp (.setKey k pressed) s = .next t ∧
        (∀ j, t.getKey j = if j = k then pressed else s.getKey j) ∧ t = { s with keys := t.keys }) ∧
    hostOp .readDisplay s = .next s ∧
    (∃ pixels, hostReply .readDisplay s = .display pixels ∧
      ∀ (px : Fin 64) (py : Fin 32), (pixels[py])[px] = s.getPixel px py) ∧
    hostOp .readSound s = .next s ∧
    hostReply .readSound s = .sound (decide (s.st ≠ 0))

/-- A step with listed inputs is the host's own operations in order: its events, then `execute_cycle` with its random
byte (R2, R4, R56; that inputs stand in State is the model's choice, log 4). -/
def Obligations.StepIsTheHostsOperationsInOrder : Prop :=
  ∀ (s : State) (c : CycleInput) (rest : List CycleInput), s.inputs = c :: rest →
    ∃ t, runOps (c.events.map eventOp ++ [.executeCycle c.rnd]) s = .next t ∧
      step s = .next { t with inputs := rest }
end

