-- ==== Sys2Proof/Laws/State.lean ====
section
/-! SUPPORT. What each named update of the state leaves in each field, one lemma per field per update, and what it leaves
of the accessors it does not touch. All are true by definition. -/

namespace Sys2Proof.Machine

variable (s : State)

/-! ### setV -/

@[simp] theorem State.setV_v (x : Reg) (b : Byte) : (s.setV x b).v = s.v.set x b := rfl
@[simp] theorem State.setV_i (x : Reg) (b : Byte) : (s.setV x b).i = s.i := rfl
@[simp] theorem State.setV_pc (x : Reg) (b : Byte) : (s.setV x b).pc = s.pc := rfl
@[simp] theorem State.setV_stack (x : Reg) (b : Byte) : (s.setV x b).stack = s.stack := rfl
@[simp] theorem State.setV_dt (x : Reg) (b : Byte) : (s.setV x b).dt = s.dt := rfl
@[simp] theorem State.setV_st (x : Reg) (b : Byte) : (s.setV x b).st = s.st := rfl
@[simp] theorem State.setV_keys (x : Reg) (b : Byte) : (s.setV x b).keys = s.keys := rfl
@[simp] theorem State.setV_fb (x : Reg) (b : Byte) : (s.setV x b).fb = s.fb := rfl
@[simp] theorem State.setV_mem (x : Reg) (b : Byte) : (s.setV x b).mem = s.mem := rfl
@[simp] theorem State.setV_fault (x : Reg) (b : Byte) : (s.setV x b).fault = s.fault := rfl
@[simp] theorem State.setV_config (x : Reg) (b : Byte) : (s.setV x b).config = s.config := rfl
@[simp] theorem State.setV_rnd (x : Reg) (b : Byte) : (s.setV x b).rnd = s.rnd := rfl
@[simp] theorem State.setV_freeDraws (x : Reg) (b : Byte) : (s.setV x b).freeDraws = s.freeDraws := rfl
@[simp] theorem State.setV_inputs (x : Reg) (b : Byte) : (s.setV x b).inputs = s.inputs := rfl
@[simp] theorem State.setV_memRead (x : Reg) (b : Byte) (a : Nat) : (s.setV x b).memRead a = s.memRead a := rfl
@[simp] theorem State.setV_npc (x : Reg) (b : Byte) : (s.setV x b).npc = s.npc := rfl
@[simp] theorem State.setV_sp (x : Reg) (b : Byte) : (s.setV x b).sp = s.sp := rfl
@[simp] theorem State.setV_dataAddr (x : Reg) (b : Byte) (o : Nat) : (s.setV x b).dataAddr o = s.dataAddr o := rfl
@[simp] theorem State.setV_getPixel (x : Reg) (b : Byte) (px : Fin 64) (py : Fin 32) : (s.setV x b).getPixel px py = s.getPixel px py := rfl
@[simp] theorem State.setV_getKey (x : Reg) (b : Byte) (j : KeyIndex) : (s.setV x b).getKey j = s.getKey j := rfl

/-! ### setI -/

@[simp] theorem State.setI_v (n : Nat) : (s.setI n).v = s.v := rfl
@[simp] theorem State.setI_i (n : Nat) : (s.setI n).i = BitVec.ofNat 16 (n % 4096) := rfl
@[simp] theorem State.setI_pc (n : Nat) : (s.setI n).pc = s.pc := rfl
@[simp] theorem State.setI_stack (n : Nat) : (s.setI n).stack = s.stack := rfl
@[simp] theorem State.setI_dt (n : Nat) : (s.setI n).dt = s.dt := rfl
@[simp] theorem State.setI_st (n : Nat) : (s.setI n).st = s.st := rfl
@[simp] theorem State.setI_keys (n : Nat) : (s.setI n).keys = s.keys := rfl
@[simp] theorem State.setI_fb (n : Nat) : (s.setI n).fb = s.fb := rfl
@[simp] theorem State.setI_mem (n : Nat) : (s.setI n).mem = s.mem := rfl
@[simp] theorem State.setI_fault (n : Nat) : (s.setI n).fault = s.fault := rfl
@[simp] theorem State.setI_config (n : Nat) : (s.setI n).config = s.config := rfl
@[simp] theorem State.setI_rnd (n : Nat) : (s.setI n).rnd = s.rnd := rfl
@[simp] theorem State.setI_freeDraws (n : Nat) : (s.setI n).freeDraws = s.freeDraws := rfl
@[simp] theorem State.setI_inputs (n : Nat) : (s.setI n).inputs = s.inputs := rfl
@[simp] theorem State.setI_getV (n : Nat) (r : Reg) : (s.setI n).getV r = s.getV r := rfl
@[simp] theorem State.setI_memRead (n : Nat) (a : Nat) : (s.setI n).memRead a = s.memRead a := rfl
@[simp] theorem State.setI_npc (n : Nat) : (s.setI n).npc = s.npc := rfl
@[simp] theorem State.setI_sp (n : Nat) : (s.setI n).sp = s.sp := rfl
@[simp] theorem State.setI_getPixel (n : Nat) (px : Fin 64) (py : Fin 32) : (s.setI n).getPixel px py = s.getPixel px py := rfl
@[simp] theorem State.setI_getKey (n : Nat) (j : KeyIndex) : (s.setI n).getKey j = s.getKey j := rfl

/-! ### setPc -/

@[simp] theorem State.setPc_v (n : Nat) : (s.setPc n).v = s.v := rfl
@[simp] theorem State.setPc_i (n : Nat) : (s.setPc n).i = s.i := rfl
@[simp] theorem State.setPc_pc (n : Nat) : (s.setPc n).pc = BitVec.ofNat 16 (n % 4096) := rfl
@[simp] theorem State.setPc_stack (n : Nat) : (s.setPc n).stack = s.stack := rfl
@[simp] theorem State.setPc_dt (n : Nat) : (s.setPc n).dt = s.dt := rfl
@[simp] theorem State.setPc_st (n : Nat) : (s.setPc n).st = s.st := rfl
@[simp] theorem State.setPc_keys (n : Nat) : (s.setPc n).keys = s.keys := rfl
@[simp] theorem State.setPc_fb (n : Nat) : (s.setPc n).fb = s.fb := rfl
@[simp] theorem State.setPc_mem (n : Nat) : (s.setPc n).mem = s.mem := rfl
@[simp] theorem State.setPc_fault (n : Nat) : (s.setPc n).fault = s.fault := rfl
@[simp] theorem State.setPc_config (n : Nat) : (s.setPc n).config = s.config := rfl
@[simp] theorem State.setPc_rnd (n : Nat) : (s.setPc n).rnd = s.rnd := rfl
@[simp] theorem State.setPc_freeDraws (n : Nat) : (s.setPc n).freeDraws = s.freeDraws := rfl
@[simp] theorem State.setPc_inputs (n : Nat) : (s.setPc n).inputs = s.inputs := rfl
@[simp] theorem State.setPc_getV (n : Nat) (r : Reg) : (s.setPc n).getV r = s.getV r := rfl
@[simp] theorem State.setPc_memRead (n : Nat) (a : Nat) : (s.setPc n).memRead a = s.memRead a := rfl
@[simp] theorem State.setPc_sp (n : Nat) : (s.setPc n).sp = s.sp := rfl
@[simp] theorem State.setPc_dataAddr (n : Nat) (o : Nat) : (s.setPc n).dataAddr o = s.dataAddr o := rfl
@[simp] theorem State.setPc_getPixel (n : Nat) (px : Fin 64) (py : Fin 32) : (s.setPc n).getPixel px py = s.getPixel px py := rfl
@[simp] theorem State.setPc_getKey (n : Nat) (j : KeyIndex) : (s.setPc n).getKey j = s.getKey j := rfl

/-! ### advance -/

@[simp] theorem State.advance_v : (s.advance).v = s.v := rfl
@[simp] theorem State.advance_i : (s.advance).i = s.i := rfl
@[simp] theorem State.advance_pc : (s.advance).pc = BitVec.ofNat 16 (s.npc % 4096) := rfl
@[simp] theorem State.advance_stack : (s.advance).stack = s.stack := rfl
@[simp] theorem State.advance_dt : (s.advance).dt = s.dt := rfl
@[simp] theorem State.advance_st : (s.advance).st = s.st := rfl
@[simp] theorem State.advance_keys : (s.advance).keys = s.keys := rfl
@[simp] theorem State.advance_fb : (s.advance).fb = s.fb := rfl
@[simp] theorem State.advance_mem : (s.advance).mem = s.mem := rfl
@[simp] theorem State.advance_fault : (s.advance).fault = s.fault := rfl
@[simp] theorem State.advance_config : (s.advance).config = s.config := rfl
@[simp] theorem State.advance_rnd : (s.advance).rnd = s.rnd := rfl
@[simp] theorem State.advance_freeDraws : (s.advance).freeDraws = s.freeDraws := rfl
@[simp] theorem State.advance_inputs : (s.advance).inputs = s.inputs := rfl
@[simp] theorem State.advance_getV (r : Reg) : (s.advance).getV r = s.getV r := rfl
@[simp] theorem State.advance_memRead (a : Nat) : (s.advance).memRead a = s.memRead a := rfl
@[simp] theorem State.advance_sp : (s.advance).sp = s.sp := rfl
@[simp] theorem State.advance_dataAddr (o : Nat) : (s.advance).dataAddr o = s.dataAddr o := rfl
@[simp] theorem State.advance_getPixel (px : Fin 64) (py : Fin 32) : (s.advance).getPixel px py = s.getPixel px py := rfl
@[simp] theorem State.advance_getKey (j : KeyIndex) : (s.advance).getKey j = s.getKey j := rfl

/-! ### setDt -/

@[simp] theorem State.setDt_v (b : Byte) : (s.setDt b).v = s.v := rfl
@[simp] theorem State.setDt_i (b : Byte) : (s.setDt b).i = s.i := rfl
@[simp] theorem State.setDt_pc (b : Byte) : (s.setDt b).pc = s.pc := rfl
@[simp] theorem State.setDt_stack (b : Byte) : (s.setDt b).stack = s.stack := rfl
@[simp] theorem State.setDt_dt (b : Byte) : (s.setDt b).dt = b := rfl
@[simp] theorem State.setDt_st (b : Byte) : (s.setDt b).st = s.st := rfl
@[simp] theorem State.setDt_keys (b : Byte) : (s.setDt b).keys = s.keys := rfl
@[simp] theorem State.setDt_fb (b : Byte) : (s.setDt b).fb = s.fb := rfl
@[simp] theorem State.setDt_mem (b : Byte) : (s.setDt b).mem = s.mem := rfl
@[simp] theorem State.setDt_fault (b : Byte) : (s.setDt b).fault = s.fault := rfl
@[simp] theorem State.setDt_config (b : Byte) : (s.setDt b).config = s.config := rfl
@[simp] theorem State.setDt_rnd (b : Byte) : (s.setDt b).rnd = s.rnd := rfl
@[simp] theorem State.setDt_freeDraws (b : Byte) : (s.setDt b).freeDraws = s.freeDraws := rfl
@[simp] theorem State.setDt_inputs (b : Byte) : (s.setDt b).inputs = s.inputs := rfl
@[simp] theorem State.setDt_getV (b : Byte) (r : Reg) : (s.setDt b).getV r = s.getV r := rfl
@[simp] theorem State.setDt_memRead (b : Byte) (a : Nat) : (s.setDt b).memRead a = s.memRead a := rfl
@[simp] theorem State.setDt_npc (b : Byte) : (s.setDt b).npc = s.npc := rfl
@[simp] theorem State.setDt_sp (b : Byte) : (s.setDt b).sp = s.sp := rfl
@[simp] theorem State.setDt_dataAddr (b : Byte) (o : Nat) : (s.setDt b).dataAddr o = s.dataAddr o := rfl
@[simp] theorem State.setDt_getPixel (b : Byte) (px : Fin 64) (py : Fin 32) : (s.setDt b).getPixel px py = s.getPixel px py := rfl
@[simp] theorem State.setDt_getKey (b : Byte) (j : KeyIndex) : (s.setDt b).getKey j = s.getKey j := rfl

/-! ### setSt -/

@[simp] theorem State.setSt_v (b : Byte) : (s.setSt b).v = s.v := rfl
@[simp] theorem State.setSt_i (b : Byte) : (s.setSt b).i = s.i := rfl
@[simp] theorem State.setSt_pc (b : Byte) : (s.setSt b).pc = s.pc := rfl
@[simp] theorem State.setSt_stack (b : Byte) : (s.setSt b).stack = s.stack := rfl
@[simp] theorem State.setSt_dt (b : Byte) : (s.setSt b).dt = s.dt := rfl
@[simp] theorem State.setSt_st (b : Byte) : (s.setSt b).st = b := rfl
@[simp] theorem State.setSt_keys (b : Byte) : (s.setSt b).keys = s.keys := rfl
@[simp] theorem State.setSt_fb (b : Byte) : (s.setSt b).fb = s.fb := rfl
@[simp] theorem State.setSt_mem (b : Byte) : (s.setSt b).mem = s.mem := rfl
@[simp] theorem State.setSt_fault (b : Byte) : (s.setSt b).fault = s.fault := rfl
@[simp] theorem State.setSt_config (b : Byte) : (s.setSt b).config = s.config := rfl
@[simp] theorem State.setSt_rnd (b : Byte) : (s.setSt b).rnd = s.rnd := rfl
@[simp] theorem State.setSt_freeDraws (b : Byte) : (s.setSt b).freeDraws = s.freeDraws := rfl
@[simp] theorem State.setSt_inputs (b : Byte) : (s.setSt b).inputs = s.inputs := rfl
@[simp] theorem State.setSt_getV (b : Byte) (r : Reg) : (s.setSt b).getV r = s.getV r := rfl
@[simp] theorem State.setSt_memRead (b : Byte) (a : Nat) : (s.setSt b).memRead a = s.memRead a := rfl
@[simp] theorem State.setSt_npc (b : Byte) : (s.setSt b).npc = s.npc := rfl
@[simp] theorem State.setSt_sp (b : Byte) : (s.setSt b).sp = s.sp := rfl
@[simp] theorem State.setSt_dataAddr (b : Byte) (o : Nat) : (s.setSt b).dataAddr o = s.dataAddr o := rfl
@[simp] theorem State.setSt_getPixel (b : Byte) (px : Fin 64) (py : Fin 32) : (s.setSt b).getPixel px py = s.getPixel px py := rfl
@[simp] theorem State.setSt_getKey (b : Byte) (j : KeyIndex) : (s.setSt b).getKey j = s.getKey j := rfl

/-! ### push -/

@[simp] theorem State.push_v (n : Nat) : (s.push n).v = s.v := rfl
@[simp] theorem State.push_i (n : Nat) : (s.push n).i = s.i := rfl
@[simp] theorem State.push_pc (n : Nat) : (s.push n).pc = s.pc := rfl
@[simp] theorem State.push_stack (n : Nat) : (s.push n).stack = s.stack ++ [BitVec.ofNat 16 n] := rfl
@[simp] theorem State.push_dt (n : Nat) : (s.push n).dt = s.dt := rfl
@[simp] theorem State.push_st (n : Nat) : (s.push n).st = s.st := rfl
@[simp] theorem State.push_keys (n : Nat) : (s.push n).keys = s.keys := rfl
@[simp] theorem State.push_fb (n : Nat) : (s.push n).fb = s.fb := rfl
@[simp] theorem State.push_mem (n : Nat) : (s.push n).mem = s.mem := rfl
@[simp] theorem State.push_fault (n : Nat) : (s.push n).fault = s.fault := rfl
@[simp] theorem State.push_config (n : Nat) : (s.push n).config = s.config := rfl
@[simp] theorem State.push_rnd (n : Nat) : (s.push n).rnd = s.rnd := rfl
@[simp] theorem State.push_freeDraws (n : Nat) : (s.push n).freeDraws = s.freeDraws := rfl
@[simp] theorem State.push_inputs (n : Nat) : (s.push n).inputs = s.inputs := rfl
@[simp] theorem State.push_getV (n : Nat) (r : Reg) : (s.push n).getV r = s.getV r := rfl
@[simp] theorem State.push_memRead (n : Nat) (a : Nat) : (s.push n).memRead a = s.memRead a := rfl
@[simp] theorem State.push_npc (n : Nat) : (s.push n).npc = s.npc := rfl
@[simp] theorem State.push_dataAddr (n : Nat) (o : Nat) : (s.push n).dataAddr o = s.dataAddr o := rfl
@[simp] theorem State.push_getPixel (n : Nat) (px : Fin 64) (py : Fin 32) : (s.push n).getPixel px py = s.getPixel px py := rfl
@[simp] theorem State.push_getKey (n : Nat) (j : KeyIndex) : (s.push n).getKey j = s.getKey j := rfl

/-! ### pop -/

@[simp] theorem State.pop_v : (s.pop).v = s.v := rfl
@[simp] theorem State.pop_i : (s.pop).i = s.i := rfl
@[simp] theorem State.pop_pc : (s.pop).pc = s.pc := rfl
@[simp] theorem State.pop_stack : (s.pop).stack = s.stack.dropLast := rfl
@[simp] theorem State.pop_dt : (s.pop).dt = s.dt := rfl
@[simp] theorem State.pop_st : (s.pop).st = s.st := rfl
@[simp] theorem State.pop_keys : (s.pop).keys = s.keys := rfl
@[simp] theorem State.pop_fb : (s.pop).fb = s.fb := rfl
@[simp] theorem State.pop_mem : (s.pop).mem = s.mem := rfl
@[simp] theorem State.pop_fault : (s.pop).fault = s.fault := rfl
@[simp] theorem State.pop_config : (s.pop).config = s.config := rfl
@[simp] theorem State.pop_rnd : (s.pop).rnd = s.rnd := rfl
@[simp] theorem State.pop_freeDraws : (s.pop).freeDraws = s.freeDraws := rfl
@[simp] theorem State.pop_inputs : (s.pop).inputs = s.inputs := rfl
@[simp] theorem State.pop_getV (r : Reg) : (s.pop).getV r = s.getV r := rfl
@[simp] theorem State.pop_memRead (a : Nat) : (s.pop).memRead a = s.memRead a := rfl
@[simp] theorem State.pop_npc : (s.pop).npc = s.npc := rfl
@[simp] theorem State.pop_dataAddr (o : Nat) : (s.pop).dataAddr o = s.dataAddr o := rfl
@[simp] theorem State.pop_getPixel (px : Fin 64) (py : Fin 32) : (s.pop).getPixel px py = s.getPixel px py := rfl
@[simp] theorem State.pop_getKey (j : KeyIndex) : (s.pop).getKey j = s.getKey j := rfl

/-! ### raise -/

@[simp] theorem State.raise_v (f : FaultLatch) : (s.raise f).v = s.v := rfl
@[simp] theorem State.raise_i (f : FaultLatch) : (s.raise f).i = s.i := rfl
@[simp] theorem State.raise_pc (f : FaultLatch) : (s.raise f).pc = s.pc := rfl
@[simp] theorem State.raise_stack (f : FaultLatch) : (s.raise f).stack = s.stack := rfl
@[simp] theorem State.raise_dt (f : FaultLatch) : (s.raise f).dt = s.dt := rfl
@[simp] theorem State.raise_st (f : FaultLatch) : (s.raise f).st = s.st := rfl
@[simp] theorem State.raise_keys (f : FaultLatch) : (s.raise f).keys = s.keys := rfl
@[simp] theorem State.raise_fb (f : FaultLatch) : (s.raise f).fb = s.fb := rfl
@[simp] theorem State.raise_mem (f : FaultLatch) : (s.raise f).mem = s.mem := rfl
@[simp] theorem State.raise_fault (f : FaultLatch) : (s.raise f).fault = f := rfl
@[simp] theorem State.raise_config (f : FaultLatch) : (s.raise f).config = s.config := rfl
@[simp] theorem State.raise_rnd (f : FaultLatch) : (s.raise f).rnd = s.rnd := rfl
@[simp] theorem State.raise_freeDraws (f : FaultLatch) : (s.raise f).freeDraws = s.freeDraws := rfl
@[simp] theorem State.raise_inputs (f : FaultLatch) : (s.raise f).inputs = s.inputs := rfl
@[simp] theorem State.raise_getV (f : FaultLatch) (r : Reg) : (s.raise f).getV r = s.getV r := rfl
@[simp] theorem State.raise_memRead (f : FaultLatch) (a : Nat) : (s.raise f).memRead a = s.memRead a := rfl
@[simp] theorem State.raise_npc (f : FaultLatch) : (s.raise f).npc = s.npc := rfl
@[simp] theorem State.raise_sp (f : FaultLatch) : (s.raise f).sp = s.sp := rfl
@[simp] theorem State.raise_dataAddr (f : FaultLatch) (o : Nat) : (s.raise f).dataAddr o = s.dataAddr o := rfl
@[simp] theorem State.raise_getPixel (f : FaultLatch) (px : Fin 64) (py : Fin 32) : (s.raise f).getPixel px py = s.getPixel px py := rfl
@[simp] theorem State.raise_getKey (f : FaultLatch) (j : KeyIndex) : (s.raise f).getKey j = s.getKey j := rfl

/-! ### memWrite -/

@[simp] theorem State.memWrite_v (c : Nat) (b : Byte) : (s.memWrite c b).v = s.v := rfl
@[simp] theorem State.memWrite_i (c : Nat) (b : Byte) : (s.memWrite c b).i = s.i := rfl
@[simp] theorem State.memWrite_pc (c : Nat) (b : Byte) : (s.memWrite c b).pc = s.pc := rfl
@[simp] theorem State.memWrite_stack (c : Nat) (b : Byte) : (s.memWrite c b).stack = s.stack := rfl
@[simp] theorem State.memWrite_dt (c : Nat) (b : Byte) : (s.memWrite c b).dt = s.dt := rfl
@[simp] theorem State.memWrite_st (c : Nat) (b : Byte) : (s.memWrite c b).st = s.st := rfl
@[simp] theorem State.memWrite_keys (c : Nat) (b : Byte) : (s.memWrite c b).keys = s.keys := rfl
@[simp] theorem State.memWrite_fb (c : Nat) (b : Byte) : (s.memWrite c b).fb = s.fb := rfl
@[simp] theorem State.memWrite_mem (c : Nat) (b : Byte) : (s.memWrite c b).mem = Memory.write s.config.font s.mem (wrapAddress c) b := rfl
@[simp] theorem State.memWrite_fault (c : Nat) (b : Byte) : (s.memWrite c b).fault = s.fault := rfl
@[simp] theorem State.memWrite_config (c : Nat) (b : Byte) : (s.memWrite c b).config = s.config := rfl
@[simp] theorem State.memWrite_rnd (c : Nat) (b : Byte) : (s.memWrite c b).rnd = s.rnd := rfl
@[simp] theorem State.memWrite_freeDraws (c : Nat) (b : Byte) : (s.memWrite c b).freeDraws = s.freeDraws := rfl
@[simp] theorem State.memWrite_inputs (c : Nat) (b : Byte) : (s.memWrite c b).inputs = s.inputs := rfl
@[simp] theorem State.memWrite_getV (c : Nat) (b : Byte) (r : Reg) : (s.memWrite c b).getV r = s.getV r := rfl
@[simp] theorem State.memWrite_npc (c : Nat) (b : Byte) : (s.memWrite c b).npc = s.npc := rfl
@[simp] theorem State.memWrite_sp (c : Nat) (b : Byte) : (s.memWrite c b).sp = s.sp := rfl
@[simp] theorem State.memWrite_dataAddr (c : Nat) (b : Byte) (o : Nat) : (s.memWrite c b).dataAddr o = s.dataAddr o := rfl
@[simp] theorem State.memWrite_getPixel (c : Nat) (b : Byte) (px : Fin 64) (py : Fin 32) : (s.memWrite c b).getPixel px py = s.getPixel px py := rfl
@[simp] theorem State.memWrite_getKey (c : Nat) (b : Byte) (j : KeyIndex) : (s.memWrite c b).getKey j = s.getKey j := rfl

/-! ### setPixel -/

@[simp] theorem State.setPixel_v (x : Fin 64) (y : Fin 32) (b : Bool) : (s.setPixel x y b).v = s.v := rfl
@[simp] theorem State.setPixel_i (x : Fin 64) (y : Fin 32) (b : Bool) : (s.setPixel x y b).i = s.i := rfl
@[simp] theorem State.setPixel_pc (x : Fin 64) (y : Fin 32) (b : Bool) : (s.setPixel x y b).pc = s.pc := rfl
@[simp] theorem State.setPixel_stack (x : Fin 64) (y : Fin 32) (b : Bool) : (s.setPixel x y b).stack = s.stack := rfl
@[simp] theorem State.setPixel_dt (x : Fin 64) (y : Fin 32) (b : Bool) : (s.setPixel x y b).dt = s.dt := rfl
@[simp] theorem State.setPixel_st (x : Fin 64) (y : Fin 32) (b : Bool) : (s.setPixel x y b).st = s.st := rfl
@[simp] theorem State.setPixel_keys (x : Fin 64) (y : Fin 32) (b : Bool) : (s.setPixel x y b).keys = s.keys := rfl
@[simp] theorem State.setPixel_fb (x : Fin 64) (y : Fin 32) (b : Bool) : (s.setPixel x y b).fb = s.fb.set y (s.fb[y].set x b) := rfl
@[simp] theorem State.setPixel_mem (x : Fin 64) (y : Fin 32) (b : Bool) : (s.setPixel x y b).mem = s.mem := rfl
@[simp] theorem State.setPixel_fault (x : Fin 64) (y : Fin 32) (b : Bool) : (s.setPixel x y b).fault = s.fault := rfl
@[simp] theorem State.setPixel_config (x : Fin 64) (y : Fin 32) (b : Bool) : (s.setPixel x y b).config = s.config := rfl
@[simp] theorem State.setPixel_rnd (x : Fin 64) (y : Fin 32) (b : Bool) : (s.setPixel x y b).rnd = s.rnd := rfl
@[simp] theorem State.setPixel_freeDraws (x : Fin 64) (y : Fin 32) (b : Bool) : (s.setPixel x y b).freeDraws = s.freeDraws := rfl
@[simp] theorem State.setPixel_inputs (x : Fin 64) (y : Fin 32) (b : Bool) : (s.setPixel x y b).inputs = s.inputs := rfl
@[simp] theorem State.setPixel_getV (x : Fin 64) (y : Fin 32) (b : Bool) (r : Reg) : (s.setPixel x y b).getV r = s.getV r := rfl
@[simp] theorem State.setPixel_memRead (x : Fin 64) (y : Fin 32) (b : Bool) (a : Nat) : (s.setPixel x y b).memRead a = s.memRead a := rfl
@[simp] theorem State.setPixel_npc (x : Fin 64) (y : Fin 32) (b : Bool) : (s.setPixel x y b).npc = s.npc := rfl
@[simp] theorem State.setPixel_sp (x : Fin 64) (y : Fin 32) (b : Bool) : (s.setPixel x y b).sp = s.sp := rfl
@[simp] theorem State.setPixel_dataAddr (x : Fin 64) (y : Fin 32) (b : Bool) (o : Nat) : (s.setPixel x y b).dataAddr o = s.dataAddr o := rfl
@[simp] theorem State.setPixel_getKey (x : Fin 64) (y : Fin 32) (b : Bool) (j : KeyIndex) : (s.setPixel x y b).getKey j = s.getKey j := rfl

/-! ### clearDisplay -/

@[simp] theorem State.clearDisplay_v : (s.clearDisplay).v = s.v := rfl
@[simp] theorem State.clearDisplay_i : (s.clearDisplay).i = s.i := rfl
@[simp] theorem State.clearDisplay_pc : (s.clearDisplay).pc = s.pc := rfl
@[simp] theorem State.clearDisplay_stack : (s.clearDisplay).stack = s.stack := rfl
@[simp] theorem State.clearDisplay_dt : (s.clearDisplay).dt = s.dt := rfl
@[simp] theorem State.clearDisplay_st : (s.clearDisplay).st = s.st := rfl
@[simp] theorem State.clearDisplay_keys : (s.clearDisplay).keys = s.keys := rfl
@[simp] theorem State.clearDisplay_fb : (s.clearDisplay).fb = Vector.replicate 32 (Vector.replicate 64 false) := rfl
@[simp] theorem State.clearDisplay_mem : (s.clearDisplay).mem = s.mem := rfl
@[simp] theorem State.clearDisplay_fault : (s.clearDisplay).fault = s.fault := rfl
@[simp] theorem State.clearDisplay_config : (s.clearDisplay).config = s.config := rfl
@[simp] theorem State.clearDisplay_rnd : (s.clearDisplay).rnd = s.rnd := rfl
@[simp] theorem State.clearDisplay_freeDraws : (s.clearDisplay).freeDraws = s.freeDraws := rfl
@[simp] theorem State.clearDisplay_inputs : (s.clearDisplay).inputs = s.inputs := rfl
@[simp] theorem State.clearDisplay_getV (r : Reg) : (s.clearDisplay).getV r = s.getV r := rfl
@[simp] theorem State.clearDisplay_memRead (a : Nat) : (s.clearDisplay).memRead a = s.memRead a := rfl
@[simp] theorem State.clearDisplay_npc : (s.clearDisplay).npc = s.npc := rfl
@[simp] theorem State.clearDisplay_sp : (s.clearDisplay).sp = s.sp := rfl
@[simp] theorem State.clearDisplay_dataAddr (o : Nat) : (s.clearDisplay).dataAddr o = s.dataAddr o := rfl
@[simp] theorem State.clearDisplay_getKey (j : KeyIndex) : (s.clearDisplay).getKey j = s.getKey j := rfl

/-! ### setKey -/

@[simp] theorem State.setKey_v (k : KeyIndex) (p : Bool) : (s.setKey k p).v = s.v := rfl
@[simp] theorem State.setKey_i (k : KeyIndex) (p : Bool) : (s.setKey k p).i = s.i := rfl
@[simp] theorem State.setKey_pc (k : KeyIndex) (p : Bool) : (s.setKey k p).pc = s.pc := rfl
@[simp] theorem State.setKey_stack (k : KeyIndex) (p : Bool) : (s.setKey k p).stack = s.stack := rfl
@[simp] theorem State.setKey_dt (k : KeyIndex) (p : Bool) : (s.setKey k p).dt = s.dt := rfl
@[simp] theorem State.setKey_st (k : KeyIndex) (p : Bool) : (s.setKey k p).st = s.st := rfl
@[simp] theorem State.setKey_keys (k : KeyIndex) (p : Bool) : (s.setKey k p).keys = s.keys.set k p := rfl
@[simp] theorem State.setKey_fb (k : KeyIndex) (p : Bool) : (s.setKey k p).fb = s.fb := rfl
@[simp] theorem State.setKey_mem (k : KeyIndex) (p : Bool) : (s.setKey k p).mem = s.mem := rfl
@[simp] theorem State.setKey_fault (k : KeyIndex) (p : Bool) : (s.setKey k p).fault = s.fault := rfl
@[simp] theorem State.setKey_config (k : KeyIndex) (p : Bool) : (s.setKey k p).config = s.config := rfl
@[simp] theorem State.setKey_rnd (k : KeyIndex) (p : Bool) : (s.setKey k p).rnd = s.rnd := rfl
@[simp] theorem State.setKey_freeDraws (k : KeyIndex) (p : Bool) : (s.setKey k p).freeDraws = s.freeDraws := rfl
@[simp] theorem State.setKey_inputs (k : KeyIndex) (p : Bool) : (s.setKey k p).inputs = s.inputs := rfl
@[simp] theorem State.setKey_getV (k : KeyIndex) (p : Bool) (r : Reg) : (s.setKey k p).getV r = s.getV r := rfl
@[simp] theorem State.setKey_memRead (k : KeyIndex) (p : Bool) (a : Nat) : (s.setKey k p).memRead a = s.memRead a := rfl
@[simp] theorem State.setKey_npc (k : KeyIndex) (p : Bool) : (s.setKey k p).npc = s.npc := rfl
@[simp] theorem State.setKey_sp (k : KeyIndex) (p : Bool) : (s.setKey k p).sp = s.sp := rfl
@[simp] theorem State.setKey_dataAddr (k : KeyIndex) (p : Bool) (o : Nat) : (s.setKey k p).dataAddr o = s.dataAddr o := rfl
@[simp] theorem State.setKey_getPixel (k : KeyIndex) (p : Bool) (px : Fin 64) (py : Fin 32) : (s.setKey k p).getPixel px py = s.getPixel px py := rfl

/-! ### tickTimers -/

@[simp] theorem State.tickTimers_v : (s.tickTimers).v = s.v := rfl
@[simp] theorem State.tickTimers_i : (s.tickTimers).i = s.i := rfl
@[simp] theorem State.tickTimers_pc : (s.tickTimers).pc = s.pc := rfl
@[simp] theorem State.tickTimers_stack : (s.tickTimers).stack = s.stack := rfl
@[simp] theorem State.tickTimers_dt : (s.tickTimers).dt = tickDown s.dt := rfl
@[simp] theorem State.tickTimers_st : (s.tickTimers).st = tickDown s.st := rfl
@[simp] theorem State.tickTimers_keys : (s.tickTimers).keys = s.keys := rfl
@[simp] theorem State.tickTimers_fb : (s.tickTimers).fb = s.fb := rfl
@[simp] theorem State.tickTimers_mem : (s.tickTimers).mem = s.mem := rfl
@[simp] theorem State.tickTimers_fault : (s.tickTimers).fault = s.fault := rfl
@[simp] theorem State.tickTimers_config : (s.tickTimers).config = s.config := rfl
@[simp] theorem State.tickTimers_rnd : (s.tickTimers).rnd = s.rnd := rfl
@[simp] theorem State.tickTimers_freeDraws : (s.tickTimers).freeDraws = s.freeDraws := rfl
@[simp] theorem State.tickTimers_inputs : (s.tickTimers).inputs = s.inputs := rfl
@[simp] theorem State.tickTimers_getV (r : Reg) : (s.tickTimers).getV r = s.getV r := rfl
@[simp] theorem State.tickTimers_memRead (a : Nat) : (s.tickTimers).memRead a = s.memRead a := rfl
@[simp] theorem State.tickTimers_npc : (s.tickTimers).npc = s.npc := rfl
@[simp] theorem State.tickTimers_sp : (s.tickTimers).sp = s.sp := rfl
@[simp] theorem State.tickTimers_dataAddr (o : Nat) : (s.tickTimers).dataAddr o = s.dataAddr o := rfl
@[simp] theorem State.tickTimers_getPixel (px : Fin 64) (py : Fin 32) : (s.tickTimers).getPixel px py = s.getPixel px py := rfl
@[simp] theorem State.tickTimers_getKey (j : KeyIndex) : (s.tickTimers).getKey j = s.getKey j := rfl

end Sys2Proof.Machine
end

