-- ==== Sys2Proof/Laws/Memory.lean ====
section
/-! SUPPORT. Memory: a read after a write, and every operation keeps the canonical form. -/

namespace Sys2Proof.Machine

theorem Memory.read_of_forall_ne (font : Vector Byte 80) {m : Memory} {a : Nat} (h : ∀ c ∈ m, a ≠ c.1) :
    Memory.read font m a = initialByte font a := by
  induction m with
  | nil => rfl
  | cons c rest ih =>
    obtain ⟨b, w⟩ := c
    have hb : a ≠ b := h (b, w) (by simp)
    simp [Memory.read, hb, ih (fun c hc => h c (by simp [hc]))]

/-- A read after a write, on a memory whose addresses rise. -/
theorem Memory.read_write (font : Vector Byte 80) {m : Memory} (h : m.Pairwise (fun c d => c.1 < d.1)) (a b : Nat)
    (x : Byte) : Memory.read font (Memory.write font m a x) b = if b = a then x else Memory.read font m b := by
  induction m with
  | nil =>
    by_cases hx : x = initialByte font a <;> by_cases hb : b = a <;> simp_all [Memory.write, Memory.read]
  | cons c rest ih =>
    obtain ⟨a', w⟩ := c
    obtain ⟨hlt, hrest⟩ := List.pairwise_cons.mp h
    have low : a ≤ a' → Memory.read font rest a = initialByte font a := fun hle =>
      Memory.read_of_forall_ne font (fun d hd => by have := hlt d hd; simp at this; omega)
    rcases Nat.lt_trichotomy a a' with hlo | rfl | hhi
    · have hne : a ≠ a' := Nat.ne_of_lt hlo
      have low' := low (Nat.le_of_lt hlo)
      by_cases hx : x = initialByte font a <;> by_cases hb : b = a <;>
        simp [Memory.write, Memory.read, hlo, hx, hb, hne, low']
    · have low' := low (Nat.le_refl _)
      by_cases hx : x = initialByte font a <;> by_cases hb : b = a <;> simp [Memory.write, Memory.read, hx, hb, low']
    · have h1 : ¬ a < a' := Nat.lt_asymm hhi
      have h2 : ¬ a = a' := Nat.ne_of_gt hhi
      simp only [Memory.write, h1, h2, if_false, Memory.read, ih hrest]
      by_cases hb : b = a <;> simp [hb, h2]

theorem Memory.mem_write (font : Vector Byte 80) {m : Memory} {a : Nat} {x : Byte} {c : Host.Cell}
    (h : c ∈ Memory.write font m a x) : (c = (a, x) ∧ x ≠ initialByte font a) ∨ c ∈ m := by
  induction m with
  | nil =>
    simp only [Memory.write] at h
    split at h <;> simp_all
  | cons d rest ih =>
    obtain ⟨b, w⟩ := d
    simp only [Memory.write] at h
    split at h
    · split at h
      · exact .inr h
      · rcases List.mem_cons.mp h with h | h
        · exact .inl ⟨h, ‹_›⟩
        · exact .inr h
    · split at h
      · split at h
        · exact .inr (List.mem_cons_of_mem _ h)
        · rcases List.mem_cons.mp h with h | h
          · exact .inl ⟨h, ‹_›⟩
          · exact .inr (List.mem_cons_of_mem _ h)
      · rcases List.mem_cons.mp h with h | h
        · exact .inr (h ▸ List.mem_cons_self)
        · rcases ih h with h | h
          · exact .inl h
          · exact .inr (List.mem_cons_of_mem _ h)

theorem Memory.write_rising (font : Vector Byte 80) {m : Memory} (h : m.Pairwise (fun c d => c.1 < d.1)) (a : Nat)
    (x : Byte) : (Memory.write font m a x).Pairwise (fun c d => c.1 < d.1) := by
  induction m with
  | nil => simp only [Memory.write]; split <;> simp
  | cons c rest ih =>
    obtain ⟨b, w⟩ := c
    obtain ⟨hlt, hrest⟩ := List.pairwise_cons.mp h
    simp only [Memory.write]
    split
    · split
      · exact h
      · refine List.pairwise_cons.mpr ⟨fun d hd => ?_, h⟩
        rcases List.mem_cons.mp hd with rfl | hd
        · assumption
        · have := hlt d hd; simp at this ⊢; omega
    · split
      · subst_vars
        split
        · exact hrest
        · exact List.pairwise_cons.mpr ⟨hlt, hrest⟩
      · refine List.pairwise_cons.mpr ⟨fun d hd => ?_, ih hrest⟩
        rcases Memory.mem_write font hd with ⟨rfl, -⟩ | hd
        · simp; omega
        · exact hlt d hd

/-- A write keeps the canonical form. -/
theorem Memory.write_wf (font : Vector Byte 80) {m : Memory} (h : Memory.wf font m) {a : Nat} (ha : a < 4096)
    (x : Byte) : Memory.wf font (Memory.write font m a x) := by
  refine ⟨Memory.write_rising font h.1 a x, fun c hc => ?_⟩
  rcases Memory.mem_write font hc with ⟨rfl, hx⟩ | hc
  · exact ⟨ha, hx⟩
  · exact h.2 c hc

theorem wrapAddress_lt (a : Nat) : wrapAddress a < 4096 := Nat.mod_lt _ (by decide)

@[simp] theorem wrapAddress_wrapAddress (a : Nat) : wrapAddress (wrapAddress a) = wrapAddress a := by
  simp [wrapAddress]

@[simp] theorem State.memRead_wrapAddress (s : State) (a : Nat) : s.memRead (wrapAddress a) = s.memRead a := by
  simp [State.memRead]

/-- `MemRead` after `MemWrite` (R34, R40). -/
theorem State.memRead_memWrite {s : State} (h : Memory.wf s.config.font s.mem) (a b : Nat) (x : Byte) :
    (s.memWrite a x).memRead b = if wrapAddress b = wrapAddress a then x else s.memRead b :=
  Memory.read_write s.config.font h.1 _ _ x

theorem State.memWrite_wf {s : State} (h : Memory.wf s.config.font s.mem) (a : Nat) (x : Byte) :
    Memory.wf (s.memWrite a x).config.font (s.memWrite a x).mem :=
  Memory.write_wf s.config.font h (wrapAddress_lt a) x

theorem programCells_bounds (font : Vector Byte 80) (bs : List Byte) (a : Nat) :
    ∀ c ∈ programCells font a bs, a ≤ c.1 ∧ c.1 < a + bs.length ∧ c.2 ≠ initialByte font c.1 := by
  induction bs generalizing a with
  | nil => simp [programCells]
  | cons b bs ih =>
    intro c hc
    simp only [programCells] at hc
    have tail : c ∈ programCells font (a + 1) bs →
        a ≤ c.1 ∧ c.1 < a + (b :: bs).length ∧ c.2 ≠ initialByte font c.1 := fun h => by
      obtain ⟨h1, h2, h3⟩ := ih (a + 1) c h
      exact ⟨by omega, by simp; omega, h3⟩
    split at hc
    · exact tail hc
    · rcases List.mem_cons.mp hc with rfl | hc
      · exact ⟨Nat.le_refl _, by simp, by assumption⟩
      · exact tail hc

theorem programCells_rising (font : Vector Byte 80) (bs : List Byte) (a : Nat) :
    (programCells font a bs).Pairwise (fun c d => c.1 < d.1) := by
  induction bs generalizing a with
  | nil => simp [programCells]
  | cons b bs ih =>
    simp only [programCells]
    split
    · exact ih (a + 1)
    · exact List.pairwise_cons.mpr ⟨fun d hd => (programCells_bounds font bs (a + 1) d hd).1, ih (a + 1)⟩

/-- What the cells of a placed program read as. -/
theorem read_programCells (font : Vector Byte 80) (bs : List Byte) (a k : Nat) :
    Memory.read font (programCells font a bs) (a + k) = (bs[k]?).getD (initialByte font (a + k)) := by
  induction bs generalizing a k with
  | nil => rfl
  | cons b bs ih =>
    have skip : Memory.read font (programCells font (a + 1) bs) a = initialByte font a :=
      Memory.read_of_forall_ne font (fun c hc => by have := (programCells_bounds font bs (a + 1) c hc).1; omega)
    cases k with
    | zero =>
      simp only [programCells]
      split <;> simp_all [Memory.read]
    | succ k =>
      have next : Memory.read font (programCells font (a + 1) bs) (a + (k + 1)) =
          (bs[k]?).getD (initialByte font (a + (k + 1))) := by
        have := ih (a + 1) k
        rwa [show a + 1 + k = a + (k + 1) by omega] at this
      simp only [programCells]
      split <;> simp [Memory.read, next]

/-- Placing a program keeps the canonical form. -/
theorem State.placeProgram_wf {s : State} (h : Memory.wf s.config.font s.mem) {rom : List Byte}
    (hfit : programFits rom = true) : Memory.wf s.config.font (s.placeProgram rom).mem := by
  have hlen : rom.length ≤ 3584 := by simpa [programFits] using hfit
  refine ⟨List.pairwise_append.mpr ⟨h.1.filter _, programCells_rising _ _ _, fun c hc d hd => ?_⟩, fun c hc => ?_⟩
  · have h1 : c.1 < 0x200 := by simpa using (List.mem_filter.mp hc).2
    have h2 := (programCells_bounds _ _ _ d hd).1
    omega
  · rcases List.mem_append.mp hc with hc | hc
    · exact h.2 c (List.mem_filter.mp hc).1
    · obtain ⟨-, h2, h3⟩ := programCells_bounds _ _ _ c hc
      exact ⟨by omega, h3⟩

end Sys2Proof.Machine
end

