-- ==== Sys2Proof/Laws/Accessors.lean ====
section
/-! SUPPORT. Reads after writes for registers, pixels and keys, and the ranges of `PC` and `I`. -/

namespace Sys2Proof.Machine

@[simp] theorem State.getV_setV (s : State) (x r : Reg) (b : Byte) :
    (s.setV x b).getV r = if r = x then b else s.getV r := by
  simp [State.getV, State.setV, Vector.getElem_set, Fin.ext_iff, eq_comm]

/-- `VX` first and `VF` second: the flag wins when `X = F` (R92). -/
theorem State.getV_setResultFlag (s : State) (x r : Reg) (b f : Byte) :
    (s.setResultFlag x b f).getV r = if r = vf then f else if r = x then b else s.getV r := by
  simp [State.setResultFlag]

@[simp] theorem State.getPixel_setPixel (s : State) (x px : Fin 64) (y py : Fin 32) (b : Bool) :
    (s.setPixel x y b).getPixel px py = if px = x ∧ py = y then b else s.getPixel px py := by
  by_cases hy : py = y <;> by_cases hx : px = x <;>
    simp_all [State.getPixel, State.setPixel, Fin.ext_iff, eq_comm]

@[simp] theorem State.getPixel_clearDisplay (s : State) (px : Fin 64) (py : Fin 32) :
    s.clearDisplay.getPixel px py = false := by
  simp [State.getPixel, State.clearDisplay]

@[simp] theorem State.getKey_setKey (s : State) (k j : KeyIndex) (b : Bool) :
    (s.setKey k b).getKey j = if j = k then b else s.getKey j := by
  simp [State.getKey, State.setKey, Vector.getElem_set, Fin.ext_iff, eq_comm]

@[simp] theorem mod_address_mod_word (n : Nat) : n % 4096 % 65536 = n % 4096 := by omega

theorem State.npc_lt (s : State) : s.npc < 4096 := Nat.mod_lt _ (by decide)

@[simp] theorem State.npc_mod_address (s : State) : s.npc % 4096 = s.npc := Nat.mod_eq_of_lt s.npc_lt

@[simp] theorem State.npc_mod_word (s : State) : s.npc % 65536 = s.npc :=
  Nat.mod_eq_of_lt (Nat.lt_trans s.npc_lt (by decide))

theorem State.toNat_advance_pc (s : State) : s.advance.pc.toNat = s.npc := by simp

theorem State.setPc_pc_lt (s : State) (n : Nat) : (s.setPc n).pc.toNat < 4096 := by
  simpa using Nat.mod_lt n (show 0 < 4096 by decide)

theorem State.setI_i_lt (s : State) (n : Nat) : (s.setI n).i.toNat < 4096 := by
  simpa using Nat.mod_lt n (show 0 < 4096 by decide)

/-- A skip or its fall-through changes `PC` alone. -/
theorem State.skipIf_eq (s : State) (c : Bool) :
    s.skipIf c = s.setPc (s.npc + if c then 2 else 0) := by
  cases c <;> rfl

theorem mem_regsUpTo (x r : Reg) : r ∈ regsUpTo x ↔ r ≤ x := by
  revert x r; decide

theorem regsUpTo_nodup (x : Reg) : (regsUpTo x).Nodup := by
  revert x; decide

@[simp] theorem State.wrapAddress_dataAddr (s : State) (k : Nat) : wrapAddress (s.dataAddr k) = s.dataAddr k :=
  wrapAddress_wrapAddress _

theorem State.dataAddr_lt (s : State) (k : Nat) : s.dataAddr k < 4096 := wrapAddress_lt _

/-- The wrapped addresses of one transfer are distinct (R36). -/
theorem State.dataAddr_inj {s : State} {j k : Nat} (hj : j < 4096) (hk : k < 4096)
    (h : s.dataAddr j = s.dataAddr k) : j = k := by
  simp only [State.dataAddr, wrapAddress] at h
  omega

end Sys2Proof.Machine
end

