-- ==== Sys2Proof/Laws/Decode.lean ====
section
/-! SUPPORT. The four nibbles of a word under masking and encoding, and the bytes of a word. -/

namespace Sys2Proof

/-- Nibble `k` of a word, counted from the least significant. -/
def nibble (k : Nat) (w : Word) : Nat := w.toNat / 2 ^ (4 * k) % 2 ^ 4

theorem nibble_and (k : Nat) (a b : Word) : nibble k (a &&& b) = nibble k a &&& nibble k b := by
  simp only [nibble, BitVec.toNat_and]
  apply Nat.eq_of_testBit_eq
  intro j
  simp only [Nat.testBit_mod_two_pow, Nat.testBit_div_two_pow, Nat.testBit_and]
  cases decide (j < 4) <;> simp

/-- A word is its four nibbles. -/
theorem eq_of_nibbles {a b : Word} (h0 : nibble 0 a = nibble 0 b) (h1 : nibble 1 a = nibble 1 b)
    (h2 : nibble 2 a = nibble 2 b) (h3 : nibble 3 a = nibble 3 b) : a = b := by
  apply BitVec.eq_of_toNat_eq
  simp only [nibble] at h0 h1 h2 h3
  have ha := a.isLt
  have hb := b.isLt
  omega

theorem fieldF_eq_nibble (op : Word) : fieldF op = nibble 3 op := rfl

theorem fieldX_eq_nibble (op : Word) : (fieldX op).val = nibble 2 op := rfl

theorem fieldY_eq_nibble (op : Word) : (fieldY op).val = nibble 1 op := rfl

theorem fieldN_eq_nibble (op : Word) : fieldN op = nibble 0 op := by simp [fieldN, nibble]

theorem fieldNN_eq_nibbles (op : Word) : fieldNN op = nibble 1 op * 16 + nibble 0 op := by
  simp only [fieldNN, nibble]; omega

theorem fieldNNN_eq_nibbles (op : Word) : fieldNNN op = nibble 2 op * 256 + nibble 1 op * 16 + nibble 0 op := by
  simp only [fieldNNN, nibble]; omega

/-- Where the mask has all four bits of a nibble, the word has the row's nibble. -/
theorem nibble_of_masked {op mask bits : Word} (h : op &&& mask = bits) {k : Nat} (hk : nibble k mask = 15) :
    nibble k op = nibble k bits := by
  rw [← h, nibble_and, hk]
  exact (Nat.and_two_pow_sub_one_of_lt_two_pow (n := 4) (Nat.mod_lt _ (by decide))).symm

/-- A match under mask 0xF000 fixes the family (R52, R54). -/
theorem fieldF_of_family {op bits : Word} (h : op &&& 0xF000 = bits) : fieldF op = nibble 3 bits :=
  nibble_of_masked h (k := 3) rfl

/-- A match under mask 0xF00F fixes the family and `N` (R52, R54). -/
theorem fields_of_subN {op bits : Word} (h : op &&& 0xF00F = bits) :
    fieldF op = nibble 3 bits ∧ fieldN op = nibble 0 bits :=
  ⟨nibble_of_masked h (k := 3) rfl, by rw [fieldN_eq_nibble]; exact nibble_of_masked h (k := 0) rfl⟩

/-- A match under mask 0xF0FF fixes the family and `NN` (R52, R54). -/
theorem fields_of_subNN {op bits : Word} (h : op &&& 0xF0FF = bits) :
    fieldF op = nibble 3 bits ∧ fieldNN op = nibble 1 bits * 16 + nibble 0 bits :=
  ⟨nibble_of_masked h (k := 3) rfl, by
    rw [fieldNN_eq_nibbles, nibble_of_masked h (k := 1) rfl, nibble_of_masked h (k := 0) rfl]⟩

/-- A match under mask 0xFFFF fixes the word (R52, R54). -/
theorem eq_of_fixed {op bits : Word} (h : op &&& 0xFFFF = bits) : op = bits :=
  eq_of_nibbles (nibble_of_masked h (k := 0) rfl) (nibble_of_masked h (k := 1) rfl)
    (nibble_of_masked h (k := 2) rfl) (nibble_of_masked h (k := 3) rfl)

theorem toNat_encodeNNN {f nnn : Nat} (hf : f < 16) (hn : nnn < 4096) :
    (encodeNNN f nnn).toNat = f * 4096 + nnn := by
  simp only [encodeNNN, BitVec.toNat_ofNat]; omega

theorem toNat_encodeXNN {f nn : Nat} (x : Reg) (hf : f < 16) (hn : nn < 256) :
    (encodeXNN f x nn).toNat = f * 4096 + x.val * 256 + nn := by
  simp only [encodeXNN, BitVec.toNat_ofNat]; omega

theorem toNat_encodeXYN {f n : Nat} (x y : Reg) (hf : f < 16) (hn : n < 16) :
    (encodeXYN f x y n).toNat = f * 4096 + x.val * 256 + y.val * 16 + n := by
  simp only [encodeXYN, BitVec.toNat_ofNat]; omega

/-- A word read back from its two bytes (R35). -/
theorem wordOfBytes_highByte_lowByte (op : Word) : wordOfBytes (highByte op) (lowByte op) = op := by
  apply BitVec.eq_of_toNat_eq
  have := op.isLt
  simp only [wordOfBytes, highByte, lowByte, BitVec.toNat_ofNat]
  omega

theorem decodeTableWord_eq (nbits w : Nat) :
    decodeTableWord nbits w = (decodeWord (BitVec.ofNat 16 w)).toOption := by
  simp only [decodeTableWord, decodeBytes, wordOfBytes_highByte_lowByte]
  cases decodeWord (BitVec.ofNat 16 w) <;> rfl

end Sys2Proof
end

