-- ==== Sys2Proof/Laws/Delivery.lean ====
section
/-! SUPPORT. What the delivery of a cycle's inputs changes: timers, keys and the input fields, nothing else. -/

namespace Sys2Proof.Machine

theorem hostEvent_frame (s : State) (e : HostEvent) :
    s.hostEvent e = { s with dt := (s.hostEvent e).dt, st := (s.hostEvent e).st, keys := (s.hostEvent e).keys } := by
  cases e <;> rfl

theorem foldl_hostEvent_frame (es : List HostEvent) (s : State) :
    es.foldl State.hostEvent s = { s with
      dt := (es.foldl State.hostEvent s).dt
      st := (es.foldl State.hostEvent s).st
      keys := (es.foldl State.hostEvent s).keys } := by
  induction es generalizing s with
  | nil => rfl
  | cons e es ih => rw [List.foldl_cons, ih (s.hostEvent e), hostEvent_frame s e]

/-- The whole of what delivery can change (R4, R141, R144, R146). -/
theorem deliver_frame (s : State) :
    s.deliver = { s with
      dt := s.deliver.dt
      st := s.deliver.st
      keys := s.deliver.keys
      rnd := s.deliver.rnd
      freeDraws := s.deliver.freeDraws
      inputs := s.deliver.inputs } := by
  unfold State.deliver
  split
  · rfl
  · rename_i c rest _
    rw [foldl_hostEvent_frame c.events s]

@[simp] theorem deliver_v (s : State) : s.deliver.v = s.v := by rw [deliver_frame]
@[simp] theorem deliver_i (s : State) : s.deliver.i = s.i := by rw [deliver_frame]
@[simp] theorem deliver_pc (s : State) : s.deliver.pc = s.pc := by rw [deliver_frame]
@[simp] theorem deliver_stack (s : State) : s.deliver.stack = s.stack := by rw [deliver_frame]
@[simp] theorem deliver_fb (s : State) : s.deliver.fb = s.fb := by rw [deliver_frame]
@[simp] theorem deliver_mem (s : State) : s.deliver.mem = s.mem := by rw [deliver_frame]
@[simp] theorem deliver_fault (s : State) : s.deliver.fault = s.fault := by rw [deliver_frame]
@[simp] theorem deliver_config (s : State) : s.deliver.config = s.config := by rw [deliver_frame]

@[simp] theorem deliver_memRead (s : State) (a : Nat) : s.deliver.memRead a = s.memRead a := by
  simp [State.memRead]

/-- No host event changes the word that is fetched. -/
@[simp] theorem deliver_fetchWord (s : State) : s.deliver.fetchWord = s.fetchWord := by
  simp [State.fetchWord]

/-- A cycle whose inputs are listed (log 3, log 4). -/
theorem deliver_cons {s : State} {c : CycleInput} {rest : List CycleInput} (h : s.inputs = c :: rest) :
    s.deliver = { c.events.foldl State.hostEvent s with rnd := c.rnd, inputs := rest } := by
  simp [State.deliver, h]

/-- A cycle for which no input is listed: no event, and a free random byte (log 3). -/
theorem deliver_nil {s : State} (h : s.inputs = []) :
    s.deliver = { s with rnd := Config.freeRandomByte s.freeDraws, freeDraws := s.freeDraws + 1 } := by
  simp [State.deliver, h]

end Sys2Proof.Machine
end

