-- ==== Sys2Proof/Laws/Loops.lean ====
section
/-! SUPPORT. What the loops of `FX55`, `FX65` and `DXYN` do, each said once over the lists they run through. -/

namespace Sys2Proof.Machine

/-! ### `FX65` -/

theorem foldl_loadReg_frame (l : List Reg) (s : State) :
    l.foldl State.loadReg s = { s with v := (l.foldl State.loadReg s).v } := by
  induction l generalizing s with
  | nil => rfl
  | cons r l ih => rw [List.foldl_cons, ih (s.loadReg r)]; rfl

/-- The registers in the list are loaded from their bytes, the others keep their values (R105). -/
theorem foldl_loadReg_getV (l : List Reg) (s : State) (r : Reg) :
    (l.foldl State.loadReg s).getV r = if r ∈ l then s.memRead (s.dataAddr r.val) else s.getV r := by
  induction l generalizing s with
  | nil => simp
  | cons q l ih =>
    simp only [List.foldl_cons, ih, List.mem_cons]
    have h1 : (s.loadReg q).memRead ((s.loadReg q).dataAddr r.val) = s.memRead (s.dataAddr r.val) := rfl
    have h2 : (s.loadReg q).getV r = if r = q then s.memRead (s.dataAddr q.val) else s.getV r := by
      simp [State.loadReg]
    rw [h1, h2]
    by_cases hq : r = q
    · subst hq; simp
    · simp [hq]

/-! ### `FX55` -/

theorem foldl_storeReg_frame (l : List Reg) (s : State) :
    l.foldl State.storeReg s = { s with mem := (l.foldl State.storeReg s).mem } := by
  induction l generalizing s with
  | nil => rfl
  | cons r l ih => rw [List.foldl_cons, ih (s.storeReg r)]; rfl

theorem storeReg_wf {s : State} (h : Memory.wf s.config.font s.mem) (r : Reg) :
    Memory.wf (s.storeReg r).config.font (s.storeReg r).mem := State.memWrite_wf h _ _

theorem storeReg_memRead {s : State} (h : Memory.wf s.config.font s.mem) (r : Reg) (a : Nat) :
    (s.storeReg r).memRead a = if wrapAddress a = s.dataAddr r.val then s.getV r else s.memRead a := by
  rw [State.storeReg, State.memRead_memWrite h, State.wrapAddress_dataAddr]

theorem storeReg_dataAddr (s : State) (r : Reg) (k : Nat) : (s.storeReg r).dataAddr k = s.dataAddr k := rfl

theorem foldl_storeReg_wf (l : List Reg) {s : State} (h : Memory.wf s.config.font s.mem) :
    Memory.wf (l.foldl State.storeReg s).config.font (l.foldl State.storeReg s).mem := by
  induction l generalizing s with
  | nil => exact h
  | cons r l ih => exact ih (storeReg_wf h r)

/-- A byte at no address of the transfer is unchanged (R104). -/
theorem foldl_storeReg_memRead_other (l : List Reg) {s : State} (h : Memory.wf s.config.font s.mem) {a : Nat}
    (ha : ∀ r ∈ l, wrapAddress a ≠ s.dataAddr r.val) : (l.foldl State.storeReg s).memRead a = s.memRead a := by
  induction l generalizing s with
  | nil => rfl
  | cons q l ih =>
    have hq : wrapAddress a ≠ s.dataAddr q.val := ha q (by simp)
    rw [List.foldl_cons, ih (storeReg_wf h q) (fun r hr => ha r (by simp [hr])), storeReg_memRead h, if_neg hq]

/-- Each register of the transfer is read back from its byte (R104). -/
theorem foldl_storeReg_memRead (l : List Reg) {s : State} (h : Memory.wf s.config.font s.mem) {r : Reg} (hr : r ∈ l) :
    (l.foldl State.storeReg s).memRead (s.dataAddr r.val) = s.getV r := by
  induction l generalizing s with
  | nil => simp at hr
  | cons q l ih =>
    rw [List.foldl_cons]
    by_cases hl : r ∈ l
    · exact ih (storeReg_wf h q) hl
    · have hq : r = q := by simpa [hl] using hr
      subst hq
      rw [foldl_storeReg_memRead_other l (storeReg_wf h r), storeReg_memRead h]
      · simp
      · intro p hp hpe
        have hpe' : s.dataAddr r.val = s.dataAddr p.val := by simpa [storeReg_dataAddr] using hpe
        exact hl (Fin.ext (State.dataAddr_inj (by omega) (by omega) hpe') ▸ hp)

/-! ### `DXYN` -/

/-- `t` is `s` with the pixels of `P` toggled and `VF` set when one of them was set before; nothing else differs. -/
structure Toggled (s t : State) (P : Fin 64 → Fin 32 → Bool) : Prop where
  pixel : ∀ px py, t.getPixel px py = (s.getPixel px py ^^ P px py)
  flag : t.getV vf = 1 ↔ s.getV vf = 1 ∨ ∃ px py, P px py = true ∧ s.getPixel px py = true
  flag_or : t.getV vf = 1 ∨ t.getV vf = s.getV vf
  reg : ∀ r, r ≠ vf → t.getV r = s.getV r
  frame : t = { s with v := t.v, fb := t.fb }

theorem Toggled.memRead {s t : State} {P : Fin 64 → Fin 32 → Bool} (h : Toggled s t P) (a : Nat) :
    t.memRead a = s.memRead a := by rw [h.frame]; rfl

theorem Toggled.dataAddr {s t : State} {P : Fin 64 → Fin 32 → Bool} (h : Toggled s t P) (k : Nat) :
    t.dataAddr k = s.dataAddr k := by rw [h.frame]; rfl

theorem Toggled.refl (s : State) : Toggled s s (fun _ _ => false) :=
  ⟨by simp, by simp, .inr rfl, fun _ _ => rfl, rfl⟩

theorem Toggled.congr {s t : State} {P Q : Fin 64 → Fin 32 → Bool} (h : Toggled s t P) (hPQ : ∀ px py, P px py = Q px py) :
    Toggled s t Q := by
  have : P = Q := by funext px py; exact hPQ px py
  exact this ▸ h

/-- Toggling two disjoint sets of pixels one after the other. -/
theorem Toggled.trans {s t u : State} {P Q : Fin 64 → Fin 32 → Bool} (h : Toggled s t P) (k : Toggled t u Q)
    (disj : ∀ px py, P px py = true → Q px py = false) : Toggled s u (fun px py => P px py || Q px py) where
  pixel px py := by
    rw [k.pixel, h.pixel]
    have := disj px py
    revert this
    cases P px py <;> cases Q px py <;> simp
  flag := by
    rw [k.flag, h.flag]
    constructor
    · rintro ((h1 | ⟨px, py, h1, h2⟩) | ⟨px, py, h1, h2⟩)
      · exact .inl h1
      · exact .inr ⟨px, py, by simp [h1], h2⟩
      · refine .inr ⟨px, py, by simp [h1], ?_⟩
        have hP : P px py = false := by
          cases hP : P px py with
          | false => rfl
          | true => simp [disj px py hP] at h1
        simpa [h.pixel, hP] using h2
    · rintro (h1 | ⟨px, py, h1, h2⟩)
      · exact .inl (.inl h1)
      · cases hP : P px py with
        | true => exact .inl (.inr ⟨px, py, hP, h2⟩)
        | false => exact .inr ⟨px, py, by simpa [hP] using h1, by simp [h.pixel, hP, h2]⟩
  flag_or := by
    rcases k.flag_or with h1 | h1
    · exact .inl h1
    · rw [h1]; exact h.flag_or
  reg r hr := by rw [k.reg r hr, h.reg r hr]
  frame := by rw [k.frame, h.frame]

/-- One XOR of a sprite bit that is 1 (R111). -/
theorem togglePixel_toggled (s : State) (x y : Nat) :
    Toggled s (s.togglePixel x y) (fun px py => decide (px.val = x ∧ py.val = y)) := by
  unfold State.togglePixel
  split
  case isTrue h =>
    have hpq : ∀ px : Fin 64, ∀ py : Fin 32, (px = ⟨x, h.1⟩ ∧ py = ⟨y, h.2⟩) ↔ (px.val = x ∧ py.val = y) := by
      simp [Fin.ext_iff]
    have flag : (∃ (px : Fin 64) (py : Fin 32), decide (px.val = x ∧ py.val = y) = true ∧ s.getPixel px py = true) ↔
        s.getPixel ⟨x, h.1⟩ ⟨y, h.2⟩ = true := by
      constructor
      · rintro ⟨px, py, h1, h2⟩
        obtain ⟨rfl, rfl⟩ := (hpq px py).mpr (by simpa using h1)
        exact h2
      · exact fun h2 => ⟨_, _, by simp, h2⟩
    cases old : s.getPixel ⟨x, h.1⟩ ⟨y, h.2⟩
    · refine ⟨fun px py => ?_, ?_, .inr rfl, fun _ _ => rfl, rfl⟩
      · by_cases hp : px = ⟨x, h.1⟩ ∧ py = ⟨y, h.2⟩
        · obtain ⟨rfl, rfl⟩ := hp; simp [old]
        · simp [hp, mt (hpq px py).mpr hp]
      · rw [flag, old]; simp
    · refine ⟨fun px py => ?_, ?_, .inl (by simp), fun r hr => by simp [hr], rfl⟩
      · by_cases hp : px = ⟨x, h.1⟩ ∧ py = ⟨y, h.2⟩
        · obtain ⟨rfl, rfl⟩ := hp; simp [old]
        · simp [hp, mt (hpq px py).mpr hp]
      · rw [flag, old]; simp
  case isFalse h =>
    refine (Toggled.refl s).congr (fun px py => ?_)
    symm
    simp only [decide_eq_false_iff_not]
    rintro ⟨rfl, rfl⟩
    exact h ⟨px.isLt, py.isLt⟩

theorem drawBit_toggled (row : Byte) (x0 y : Nat) (s : State) (b : Nat) :
    Toggled s (State.drawBit row x0 y s b) (fun px py => row.getLsbD (7 - b) && decide (px.val = x0 + b ∧ py.val = y)) := by
  unfold State.drawBit
  split <;> rename_i hb
  · exact (togglePixel_toggled s (x0 + b) y).congr (by simp [hb])
  · exact (Toggled.refl s).congr (by simp [Bool.eq_false_iff.mpr hb])

/-- The first `m` bits of a row (R111). -/
theorem foldl_drawBit_toggled (row : Byte) (x0 y : Nat) (s : State) (m : Nat) :
    Toggled s ((List.range m).foldl (State.drawBit row x0 y) s) (fun px py =>
      decide (py.val = y ∧ x0 ≤ px.val ∧ px.val < x0 + m) && row.getLsbD (7 - (px.val - x0))) := by
  induction m with
  | zero => exact (Toggled.refl s).congr (fun px py => by simp)
  | succ m ih =>
    rw [List.range_succ, List.foldl_append]
    refine (ih.trans (drawBit_toggled row x0 y _ m) (fun px py h => ?_)).congr (fun px py => ?_)
    · simp at h ⊢; omega
    · by_cases h1 : py.val = y <;> by_cases h2 : px.val = x0 + m
      · simp [h1, h2]
      · simp [h1, h2]; congr 2; simp; omega
      · simp [h1]
      · simp [h1]

/-- The first `n` rows of a sprite: the closed form of R111's loops. -/
theorem drawSprite_toggled (s : State) (x0 y0 n : Nat) :
    Toggled s (s.drawSprite x0 y0 n) (s.spriteBit x0 y0 n) := by
  unfold State.drawSprite
  induction n with
  | zero => exact (Toggled.refl s).congr (fun px py => by
      simp [State.spriteBit, show ¬(y0 ≤ py.val ∧ py.val < y0) by omega])
  | succ n ih =>
    rw [List.range_succ, List.foldl_append]
    refine (ih.trans (foldl_drawBit_toggled _ x0 (y0 + n) _ 8) (fun px py h => ?_)).congr (fun px py => ?_)
    · simp [State.spriteBit] at h ⊢; omega
    · rw [ih.memRead, ih.dataAddr]
      unfold State.spriteBit
      by_cases h1 : py.val = y0 + n
      · simp [h1]
      · have hlt : (py.val < y0 + n) = (py.val < y0 + (n + 1)) := propext (by omega)
        simp [h1, hlt]

end Sys2Proof.Machine
end

