-- ==== Sys2Proof/Laws/Exec.lean ====
section
/-! SUPPORT. What an instruction can do at all: it completes, and each field changes only by the instructions listed for
it; and what the two searches over the keypad find. -/

namespace Sys2Proof.Machine

/-! ### The keypad -/

theorem mem_allIndices (k : Fin 16) : k ∈ allIndices := by revert k; decide

/-- No key is found exactly when none is pressed (R123). -/
theorem State.lowestKey_eq_none_iff (s : State) : s.lowestKey = none ↔ ∀ k, s.getKey k = false := by
  simp [State.lowestKey, mem_allIndices]

/-- The key found is pressed, and no lower one is (R123, D12). -/
theorem State.lowestKey_eq_some {s : State} {k : KeyIndex} (hk : s.getKey k = true)
    (hlow : ∀ j, j < k → s.getKey j = false) : s.lowestKey = some k := by
  have cut : ∀ k : Fin 16, allIndices = allIndices.take k.val ++ k :: allIndices.drop (k.val + 1) ∧
      ∀ j ∈ allIndices.take k.val, j < k := by decide
  refine List.find?_eq_some_iff_append.mpr ⟨hk, _, _, (cut k).1, fun j hj => ?_⟩
  simp [hlow j ((cut k).2 j hj)]

/-- The key named by the full value of `VX` (R120, D13). -/
theorem State.selectedKey_iff (s : State) (x : Reg) :
    s.selectedKey x = true ↔ ∃ k : KeyIndex, (s.getV x).toNat = k.val ∧ s.getKey k = true := by
  unfold State.selectedKey
  split
  · rename_i hlt
    exact ⟨fun h => ⟨_, rfl, h⟩, fun ⟨k, hk, h⟩ => (Fin.ext hk.symm : k = ⟨_, hlt⟩) ▸ h⟩
  · exact ⟨fun h => by simp at h, fun ⟨k, hk, _⟩ => absurd k.isLt (by omega)⟩

/-! ### Every instruction -/

/-- The changes an instruction can make, field by field: who alone writes each one. -/
structure ExecFrame (i : Instr) (s t : State) : Prop where
  mem : (∀ x, i ≠ .ldBVx x) → (∀ x, i ≠ .ldMemVx x) → t.mem = s.mem
  fb : i ≠ .cls → (∀ x y n, i ≠ .drw x y n) → t.fb = s.fb
  stack : i ≠ .ret → (∀ nnn, i ≠ .call nnn) → t.stack = s.stack
  fault : i ≠ .ret → (∀ nnn, i ≠ .call nnn) → t.fault = s.fault
  index : (∀ nnn, i ≠ .ldI nnn) → (∀ x, i ≠ .addIVx x) → (∀ x, i ≠ .ldFVx x) → t.i = s.i
  dt : (∀ x, i ≠ .ldDtVx x) → t.dt = s.dt
  st : (∀ x, i ≠ .ldStVx x) → t.st = s.st
  keys : t.keys = s.keys
  config : t.config = s.config
  rnd : t.rnd = s.rnd
  freeDraws : t.freeDraws = s.freeDraws
  inputs : t.inputs = s.inputs

/-- What an instruction does to fields other than `V` and `PC` (R10 to R26). -/
theorem exec_frame {i : Instr} {s t : State} (he : exec i s = .next t) : ExecFrame i s t := by
  cases i
  case ret => simp only [exec, execRet] at he; split at he <;> (injection he with he; subst he; constructor <;> simp)
  case call => simp only [exec, execCall] at he; split at he <;> (injection he with he; subst he; constructor <;> simp)
  case ldVxK => simp only [exec, execLdVxK] at he; split at he <;> (injection he with he; subst he; constructor <;> simp)
  all_goals (injection he with he; subst he)
  case drw => rw [(drawSprite_toggled _ _ _ _).frame]; constructor <;> simp
  case ldMemVx => rw [foldl_storeReg_frame]; constructor <;> simp
  case ldVxMem => rw [foldl_loadReg_frame]; constructor <;> simp
  case addIVx => split <;> constructor <;> simp
  all_goals constructor <;> simp [State.setResultFlag, State.skipIf_eq]

end Sys2Proof.Machine
end

