-- ==== Sys2Proof/Laws/Invariant.lean ====
section
/-! SUPPORT. Each named operation keeps the invariant. -/

namespace Sys2Proof.Machine

/-- The invariant depends on five fields only. -/
theorem State.Inv.of_fields {s t : State} (h : s.Inv) (hpc : t.pc = s.pc) (hi : t.i = s.i) (hs : t.stack = s.stack)
    (hc : t.config = s.config) (hm : t.mem = s.mem) : t.Inv where
  pc_lt := hpc ▸ h.pc_lt
  i_lt := hi ▸ h.i_lt
  depth_le := by simpa [State.sp, hs, hc] using h.depth_le
  entries_lt := hs ▸ h.entries_lt
  mem_wf := by rw [hc, hm]; exact h.mem_wf

theorem State.Inv.setV {s : State} (h : s.Inv) (x : Reg) (b : Byte) : (s.setV x b).Inv :=
  h.of_fields rfl rfl rfl rfl rfl

theorem State.Inv.setPc {s : State} (h : s.Inv) (n : Nat) : (s.setPc n).Inv where
  pc_lt := s.setPc_pc_lt n
  i_lt := h.i_lt
  depth_le := h.depth_le
  entries_lt := h.entries_lt
  mem_wf := h.mem_wf

theorem State.Inv.advance {s : State} (h : s.Inv) : s.advance.Inv := h.setPc s.npc

theorem State.Inv.skipIf {s : State} (h : s.Inv) (c : Bool) : (s.skipIf c).Inv := by
  rw [State.skipIf_eq]; exact h.setPc _

theorem State.Inv.setI {s : State} (h : s.Inv) (n : Nat) : (s.setI n).Inv where
  pc_lt := h.pc_lt
  i_lt := s.setI_i_lt n
  depth_le := h.depth_le
  entries_lt := h.entries_lt
  mem_wf := h.mem_wf

theorem State.Inv.raise {s : State} (h : s.Inv) (f : FaultLatch) : (s.raise f).Inv :=
  h.of_fields rfl rfl rfl rfl rfl

theorem State.Inv.memWrite {s : State} (h : s.Inv) (a : Nat) (x : Byte) : (s.memWrite a x).Inv where
  pc_lt := h.pc_lt
  i_lt := h.i_lt
  depth_le := h.depth_le
  entries_lt := h.entries_lt
  mem_wf := State.memWrite_wf h.mem_wf a x

/-- A push below the capacity (R72). -/
theorem State.Inv.push {s : State} (h : s.Inv) (hsp : s.sp ≠ s.config.stackCapacity) : (s.push s.npc).Inv where
  pc_lt := h.pc_lt
  i_lt := h.i_lt
  depth_le := by
    have := h.depth_le
    simp only [State.sp, State.push_stack, State.push_config, List.length_append, List.length_singleton] at *
    omega
  entries_lt a ha := by
    rcases List.mem_append.mp ha with ha | ha
    · exact h.entries_lt a ha
    · have hn := s.npc_lt
      rw [List.mem_singleton.mp ha, BitVec.toNat_ofNat]
      omega
  mem_wf := h.mem_wf

/-- A pop (R70). -/
theorem State.Inv.pop {s : State} (h : s.Inv) : s.pop.Inv where
  pc_lt := h.pc_lt
  i_lt := h.i_lt
  depth_le := by
    have := h.depth_le
    simp only [State.sp, State.pop_stack, State.pop_config, List.length_dropLast] at *
    omega
  entries_lt a ha := h.entries_lt a (List.mem_of_mem_dropLast ha)
  mem_wf := h.mem_wf

theorem State.Inv.storeRegs {s : State} (h : s.Inv) (l : List Reg) : (l.foldl State.storeReg s).Inv := by
  have hf := foldl_storeReg_frame l s
  have hw := foldl_storeReg_wf l h.mem_wf
  refine ⟨?_, ?_, ?_, ?_, hw⟩
  · rw [hf]; exact h.pc_lt
  · rw [hf]; exact h.i_lt
  · rw [hf]; exact h.depth_le
  · rw [hf]; exact h.entries_lt

theorem State.Inv.loadRegs {s : State} (h : s.Inv) (l : List Reg) : (l.foldl State.loadReg s).Inv := by
  rw [foldl_loadReg_frame]; exact h.of_fields rfl rfl rfl rfl rfl

theorem State.Inv.drawSprite {s : State} (h : s.Inv) (x0 y0 n : Nat) : (s.drawSprite x0 y0 n).Inv := by
  rw [(drawSprite_toggled s x0 y0 n).frame]; exact h.of_fields rfl rfl rfl rfl rfl

theorem State.Inv.deliver {s : State} (h : s.Inv) : s.deliver.Inv :=
  h.of_fields (deliver_pc s) (deliver_i s) (deliver_stack s) (deliver_config s) (deliver_mem s)

end Sys2Proof.Machine
end

