-- ==== Sys2Proof/Laws/PerInstr.lean ====
section
/-! SUPPORT. Families of statements over all instructions, one lemma per constructor. -/

/-! ### EncodesInRow: the word of a well-formed instruction matches the row of R54 that bears its mnemonic -/

namespace Sys2Proof.Laws.EncodesInRow

/-- The word of a well-formed instruction matches a row of the opcode table, and that row bears its mnemonic (R54). -/
def Statement (i : Instr) : Prop :=
  i.wellFormed = true → ∃ r ∈ opcodeTable, r.mnemonic = i.mnemonic ∧ r.matches (encode i) = true

/-- A word matches a row when it does so nibble by nibble. -/
theorem matches_of_nibbles {w mask bits : Word} (m : String) (h0 : nibble 0 w &&& nibble 0 mask = nibble 0 bits)
    (h1 : nibble 1 w &&& nibble 1 mask = nibble 1 bits) (h2 : nibble 2 w &&& nibble 2 mask = nibble 2 bits)
    (h3 : nibble 3 w &&& nibble 3 mask = nibble 3 bits) : (OpcodeRow.mk m bits mask).matches w = true := by
  simp only [OpcodeRow.matches, beq_iff_eq]
  exact eq_of_nibbles (by rw [nibble_and, h0]) (by rw [nibble_and, h1]) (by rw [nibble_and, h2]) (by rw [nibble_and, h3])

/-- Rows with mask 0xF000: the family nibble decides. -/
theorem family_row (m : String) {w bits : Word} (h3 : nibble 3 w = nibble 3 bits) (low : bits.toNat % 4096 = 0) :
    (OpcodeRow.mk m bits 0xF000).matches w = true := by
  have hb : nibble 0 bits = 0 ∧ nibble 1 bits = 0 ∧ nibble 2 bits = 0 := by simp only [nibble]; omega
  refine matches_of_nibbles m ?_ ?_ ?_ ?_
  · rw [hb.1]; exact Nat.and_zero _
  · rw [hb.2.1]; exact Nat.and_zero _
  · rw [hb.2.2]; exact Nat.and_zero _
  · rw [h3]; exact Nat.and_two_pow_sub_one_of_lt_two_pow (n := 4) (Nat.mod_lt _ (by decide))

/-- Rows with mask 0xF00F: the family nibble and `N` decide. -/
theorem subN_row (m : String) {w bits : Word} (h3 : nibble 3 w = nibble 3 bits) (h0 : nibble 0 w = nibble 0 bits)
    (mid : bits.toNat / 16 % 256 = 0) : (OpcodeRow.mk m bits 0xF00F).matches w = true := by
  have hb : nibble 1 bits = 0 ∧ nibble 2 bits = 0 := by simp only [nibble]; omega
  refine matches_of_nibbles m ?_ ?_ ?_ ?_
  · rw [h0]; exact Nat.and_two_pow_sub_one_of_lt_two_pow (n := 4) (Nat.mod_lt _ (by decide))
  · rw [hb.1]; exact Nat.and_zero _
  · rw [hb.2]; exact Nat.and_zero _
  · rw [h3]; exact Nat.and_two_pow_sub_one_of_lt_two_pow (n := 4) (Nat.mod_lt _ (by decide))

/-- Rows with mask 0xF0FF: the family nibble and `NN` decide. -/
theorem subNN_row (m : String) {w bits : Word} (h3 : nibble 3 w = nibble 3 bits) (h1 : nibble 1 w = nibble 1 bits)
    (h0 : nibble 0 w = nibble 0 bits) (mid : bits.toNat / 256 % 16 = 0) :
    (OpcodeRow.mk m bits 0xF0FF).matches w = true := by
  have hb : nibble 2 bits = 0 := by simp only [nibble]; omega
  refine matches_of_nibbles m ?_ ?_ ?_ ?_
  · rw [h0]; exact Nat.and_two_pow_sub_one_of_lt_two_pow (n := 4) (Nat.mod_lt _ (by decide))
  · rw [h1]; exact Nat.and_two_pow_sub_one_of_lt_two_pow (n := 4) (Nat.mod_lt _ (by decide))
  · rw [hb]; exact Nat.and_zero _
  · rw [h3]; exact Nat.and_two_pow_sub_one_of_lt_two_pow (n := 4) (Nat.mod_lt _ (by decide))

theorem nibble_encodeNNN {f nnn : Nat} (hf : f < 16) (hn : nnn < 4096) : nibble 3 (encodeNNN f nnn) = f := by
  simp only [nibble, toNat_encodeNNN hf hn]; omega

theorem nibble_encodeXNN {f nn : Nat} (x : Reg) (hf : f < 16) (hn : nn < 256) :
    nibble 3 (encodeXNN f x nn) = f ∧ nibble 1 (encodeXNN f x nn) = nn / 16 ∧ nibble 0 (encodeXNN f x nn) = nn % 16 := by
  simp only [nibble, toNat_encodeXNN x hf hn]; omega

theorem nibble_encodeXYN {f n : Nat} (x y : Reg) (hf : f < 16) (hn : n < 16) :
    nibble 3 (encodeXYN f x y n) = f ∧ nibble 0 (encodeXYN f x y n) = n := by
  simp only [nibble, toNat_encodeXYN x y hf hn]; omega

theorem cls : Statement .cls := fun _ => ⟨⟨"CLS", 0x00E0, 0xFFFF⟩, by decide, rfl, by decide⟩

theorem ret : Statement .ret := fun _ => ⟨⟨"RET", 0x00EE, 0xFFFF⟩, by decide, rfl, by decide⟩

theorem jp (nnn : Nat) : Statement (.jp nnn) := fun h => ⟨⟨"JP", 0x1000, 0xF000⟩, by decide, rfl,
  family_row _ (nibble_encodeNNN (by decide) (of_decide_eq_true h)) rfl⟩

theorem call (nnn : Nat) : Statement (.call nnn) := fun h => ⟨⟨"CALL", 0x2000, 0xF000⟩, by decide, rfl,
  family_row _ (nibble_encodeNNN (by decide) (of_decide_eq_true h)) rfl⟩

theorem seImm (x : Reg) (nn : Byte) : Statement (.seImm x nn) := fun _ => ⟨⟨"SE_IMM", 0x3000, 0xF000⟩, by decide, rfl,
  family_row _ (nibble_encodeXNN x (by decide) nn.isLt).1 rfl⟩

theorem sneImm (x : Reg) (nn : Byte) : Statement (.sneImm x nn) := fun _ => ⟨⟨"SNE_IMM", 0x4000, 0xF000⟩, by decide, rfl,
  family_row _ (nibble_encodeXNN x (by decide) nn.isLt).1 rfl⟩

theorem seReg (x : Reg) (y : Reg) : Statement (.seReg x y) := fun _ => ⟨⟨"SE_REG", 0x5000, 0xF00F⟩, by decide, rfl,
  have e := nibble_encodeXYN x y (f := 0x5) (n := 0x0) (by decide) (by decide); subN_row _ e.1 e.2 rfl⟩

theorem ldImm (x : Reg) (nn : Byte) : Statement (.ldImm x nn) := fun _ => ⟨⟨"LD_IMM", 0x6000, 0xF000⟩, by decide, rfl,
  family_row _ (nibble_encodeXNN x (by decide) nn.isLt).1 rfl⟩

theorem addImm (x : Reg) (nn : Byte) : Statement (.addImm x nn) := fun _ => ⟨⟨"ADD_IMM", 0x7000, 0xF000⟩, by decide, rfl,
  family_row _ (nibble_encodeXNN x (by decide) nn.isLt).1 rfl⟩

theorem ldReg (x : Reg) (y : Reg) : Statement (.ldReg x y) := fun _ => ⟨⟨"LD_REG", 0x8000, 0xF00F⟩, by decide, rfl,
  have e := nibble_encodeXYN x y (f := 0x8) (n := 0x0) (by decide) (by decide); subN_row _ e.1 e.2 rfl⟩

theorem or (x : Reg) (y : Reg) : Statement (.or x y) := fun _ => ⟨⟨"OR", 0x8001, 0xF00F⟩, by decide, rfl,
  have e := nibble_encodeXYN x y (f := 0x8) (n := 0x1) (by decide) (by decide); subN_row _ e.1 e.2 rfl⟩

theorem and (x : Reg) (y : Reg) : Statement (.and x y) := fun _ => ⟨⟨"AND", 0x8002, 0xF00F⟩, by decide, rfl,
  have e := nibble_encodeXYN x y (f := 0x8) (n := 0x2) (by decide) (by decide); subN_row _ e.1 e.2 rfl⟩

theorem xor (x : Reg) (y : Reg) : Statement (.xor x y) := fun _ => ⟨⟨"XOR", 0x8003, 0xF00F⟩, by decide, rfl,
  have e := nibble_encodeXYN x y (f := 0x8) (n := 0x3) (by decide) (by decide); subN_row _ e.1 e.2 rfl⟩

theorem addReg (x : Reg) (y : Reg) : Statement (.addReg x y) := fun _ => ⟨⟨"ADD_REG", 0x8004, 0xF00F⟩, by decide, rfl,
  have e := nibble_encodeXYN x y (f := 0x8) (n := 0x4) (by decide) (by decide); subN_row _ e.1 e.2 rfl⟩

theorem sub (x : Reg) (y : Reg) : Statement (.sub x y) := fun _ => ⟨⟨"SUB", 0x8005, 0xF00F⟩, by decide, rfl,
  have e := nibble_encodeXYN x y (f := 0x8) (n := 0x5) (by decide) (by decide); subN_row _ e.1 e.2 rfl⟩

theorem shr (x : Reg) (y : Reg) : Statement (.shr x y) := fun _ => ⟨⟨"SHR", 0x8006, 0xF00F⟩, by decide, rfl,
  have e := nibble_encodeXYN x y (f := 0x8) (n := 0x6) (by decide) (by decide); subN_row _ e.1 e.2 rfl⟩

theorem subn (x : Reg) (y : Reg) : Statement (.subn x y) := fun _ => ⟨⟨"SUBN", 0x8007, 0xF00F⟩, by decide, rfl,
  have e := nibble_encodeXYN x y (f := 0x8) (n := 0x7) (by decide) (by decide); subN_row _ e.1 e.2 rfl⟩

theorem shl (x : Reg) (y : Reg) : Statement (.shl x y) := fun _ => ⟨⟨"SHL", 0x800E, 0xF00F⟩, by decide, rfl,
  have e := nibble_encodeXYN x y (f := 0x8) (n := 0xE) (by decide) (by decide); subN_row _ e.1 e.2 rfl⟩

theorem sneReg (x : Reg) (y : Reg) : Statement (.sneReg x y) := fun _ => ⟨⟨"SNE_REG", 0x9000, 0xF00F⟩, by decide, rfl,
  have e := nibble_encodeXYN x y (f := 0x9) (n := 0x0) (by decide) (by decide); subN_row _ e.1 e.2 rfl⟩

theorem ldI (nnn : Nat) : Statement (.ldI nnn) := fun h => ⟨⟨"LD_I", 0xA000, 0xF000⟩, by decide, rfl,
  family_row _ (nibble_encodeNNN (by decide) (of_decide_eq_true h)) rfl⟩

theorem jpV0 (nnn : Nat) : Statement (.jpV0 nnn) := fun h => ⟨⟨"JP_V0", 0xB000, 0xF000⟩, by decide, rfl,
  family_row _ (nibble_encodeNNN (by decide) (of_decide_eq_true h)) rfl⟩

theorem rnd (x : Reg) (nn : Byte) : Statement (.rnd x nn) := fun _ => ⟨⟨"RND", 0xC000, 0xF000⟩, by decide, rfl,
  family_row _ (nibble_encodeXNN x (by decide) nn.isLt).1 rfl⟩

theorem drw (x : Reg) (y : Reg) (n : Nat) : Statement (.drw x y n) := fun h => ⟨⟨"DRW", 0xD000, 0xF000⟩, by decide, rfl,
  family_row _ (nibble_encodeXYN x y (by decide) (of_decide_eq_true h)).1 rfl⟩

theorem skp (x : Reg) : Statement (.skp x) := fun _ => ⟨⟨"SKP", 0xE09E, 0xF0FF⟩, by decide, rfl,
  have e := nibble_encodeXNN x (f := 0xE) (nn := 0x9E) (by decide) (by decide); subNN_row _ e.1 e.2.1 e.2.2 rfl⟩

theorem sknp (x : Reg) : Statement (.sknp x) := fun _ => ⟨⟨"SKNP", 0xE0A1, 0xF0FF⟩, by decide, rfl,
  have e := nibble_encodeXNN x (f := 0xE) (nn := 0xA1) (by decide) (by decide); subNN_row _ e.1 e.2.1 e.2.2 rfl⟩

theorem ldVxDt (x : Reg) : Statement (.ldVxDt x) := fun _ => ⟨⟨"LD_VX_DT", 0xF007, 0xF0FF⟩, by decide, rfl,
  have e := nibble_encodeXNN x (f := 0xF) (nn := 0x07) (by decide) (by decide); subNN_row _ e.1 e.2.1 e.2.2 rfl⟩

theorem ldVxK (x : Reg) : Statement (.ldVxK x) := fun _ => ⟨⟨"LD_VX_K", 0xF00A, 0xF0FF⟩, by decide, rfl,
  have e := nibble_encodeXNN x (f := 0xF) (nn := 0x0A) (by decide) (by decide); subNN_row _ e.1 e.2.1 e.2.2 rfl⟩

theorem ldDtVx (x : Reg) : Statement (.ldDtVx x) := fun _ => ⟨⟨"LD_DT_VX", 0xF015, 0xF0FF⟩, by decide, rfl,
  have e := nibble_encodeXNN x (f := 0xF) (nn := 0x15) (by decide) (by decide); subNN_row _ e.1 e.2.1 e.2.2 rfl⟩

theorem ldStVx (x : Reg) : Statement (.ldStVx x) := fun _ => ⟨⟨"LD_ST_VX", 0xF018, 0xF0FF⟩, by decide, rfl,
  have e := nibble_encodeXNN x (f := 0xF) (nn := 0x18) (by decide) (by decide); subNN_row _ e.1 e.2.1 e.2.2 rfl⟩

theorem addIVx (x : Reg) : Statement (.addIVx x) := fun _ => ⟨⟨"ADD_I_VX", 0xF01E, 0xF0FF⟩, by decide, rfl,
  have e := nibble_encodeXNN x (f := 0xF) (nn := 0x1E) (by decide) (by decide); subNN_row _ e.1 e.2.1 e.2.2 rfl⟩

theorem ldFVx (x : Reg) : Statement (.ldFVx x) := fun _ => ⟨⟨"LD_F_VX", 0xF029, 0xF0FF⟩, by decide, rfl,
  have e := nibble_encodeXNN x (f := 0xF) (nn := 0x29) (by decide) (by decide); subNN_row _ e.1 e.2.1 e.2.2 rfl⟩

theorem ldBVx (x : Reg) : Statement (.ldBVx x) := fun _ => ⟨⟨"LD_B_VX", 0xF033, 0xF0FF⟩, by decide, rfl,
  have e := nibble_encodeXNN x (f := 0xF) (nn := 0x33) (by decide) (by decide); subNN_row _ e.1 e.2.1 e.2.2 rfl⟩

theorem ldMemVx (x : Reg) : Statement (.ldMemVx x) := fun _ => ⟨⟨"LD_MEM_VX", 0xF055, 0xF0FF⟩, by decide, rfl,
  have e := nibble_encodeXNN x (f := 0xF) (nn := 0x55) (by decide) (by decide); subNN_row _ e.1 e.2.1 e.2.2 rfl⟩

theorem ldVxMem (x : Reg) : Statement (.ldVxMem x) := fun _ => ⟨⟨"LD_VX_MEM", 0xF065, 0xF0FF⟩, by decide, rfl,
  have e := nibble_encodeXNN x (f := 0xF) (nn := 0x65) (by decide) (by decide); subNN_row _ e.1 e.2.1 e.2.2 rfl⟩

end Sys2Proof.Laws.EncodesInRow
end

