-- ==== Sys2Proof/Tests/Slice0.lean ====
section
/-! SUPPORT. The model's own tests. Expected results come from spec/: the encodings of R54, the vectors V-* and properties
E* of 95_test_vectors.md. The last part shows, for each statement with hypotheses, a case that meets them all. -/

namespace Sys2Proof.Tests

open Sys2Proof.Machine Sys2Proof.Claims

/-! ### Well-formedness: ill-formed terms are refused -/

theorem test_address_too_wide_refused :
    (Instr.jp 4096).wellFormed = false ∧ (Instr.call 4096).wellFormed = false ∧
    (Instr.ldI 4096).wellFormed = false ∧ (Instr.jpV0 4096).wellFormed = false := by decide

theorem test_row_count_too_wide_refused : (Instr.drw 0 0 16).wellFormed = false := by decide

theorem test_stackless_configuration_refused :
    ({ Config.default with stackCapacity := 0 } : Config).wellFormed = false := by decide

theorem test_widest_operands_accepted :
    (Instr.jp 4095).wellFormed = true ∧ (Instr.drw 15 15 15).wellFormed = true ∧
    Config.default.wellFormed = true := by decide

/-! ### Decoding: one word of every row, written out from R54 -/

theorem test_decode_control_flow :
    decodeBytes [0x00, 0xEE] = .ok (.ret, []) ∧ decodeBytes [0x12, 0x34] = .ok (.jp 0x234, []) ∧
    decodeBytes [0x2A, 0xBC] = .ok (.call 0xABC, []) ∧ decodeBytes [0x33, 0x2A] = .ok (.seImm 3 0x2A, []) ∧
    decodeBytes [0x4F, 0x80] = .ok (.sneImm 0xF 0x80, []) ∧ decodeBytes [0x51, 0x20] = .ok (.seReg 1 2, []) ∧
    decodeBytes [0x9A, 0xB0] = .ok (.sneReg 0xA 0xB, []) ∧ decodeBytes [0xBF, 0xFF] = .ok (.jpV0 0xFFF, []) := by
  decide

theorem test_decode_load_logic :
    decodeBytes [0x60, 0x0A] = .ok (.ldImm 0 0x0A, []) ∧ decodeBytes [0x7F, 0xFF] = .ok (.addImm 0xF 0xFF, []) ∧
    decodeBytes [0x81, 0x20] = .ok (.ldReg 1 2, []) ∧ decodeBytes [0x83, 0x41] = .ok (.or 3 4, []) ∧
    decodeBytes [0x85, 0x62] = .ok (.and 5 6, []) ∧ decodeBytes [0x87, 0x83] = .ok (.xor 7 8, []) := by decide

theorem test_decode_arithmetic :
    decodeBytes [0x89, 0xA4] = .ok (.addReg 9 0xA, []) ∧ decodeBytes [0x8B, 0xC5] = .ok (.sub 0xB 0xC, []) ∧
    decodeBytes [0x8D, 0xE6] = .ok (.shr 0xD 0xE, []) ∧ decodeBytes [0x8F, 0x07] = .ok (.subn 0xF 0, []) ∧
    decodeBytes [0x81, 0x2E] = .ok (.shl 1 2, []) ∧ decodeBytes [0xC2, 0xF0] = .ok (.rnd 2 0xF0, []) := by decide

theorem test_decode_display_keypad :
    decodeBytes [0x00, 0xE0] = .ok (.cls, []) ∧ decodeBytes [0xD1, 0x25] = .ok (.drw 1 2 5, []) ∧
    decodeBytes [0xE3, 0x9E] = .ok (.skp 3, []) ∧ decodeBytes [0xE4, 0xA1] = .ok (.sknp 4, []) ∧
    decodeBytes [0xF5, 0x07] = .ok (.ldVxDt 5, []) ∧ decodeBytes [0xF6, 0x0A] = .ok (.ldVxK 6, []) ∧
    decodeBytes [0xF7, 0x15] = .ok (.ldDtVx 7, []) ∧ decodeBytes [0xF8, 0x18] = .ok (.ldStVx 8, []) := by decide

theorem test_decode_index_memory :
    decodeBytes [0xA3, 0x00] = .ok (.ldI 0x300, []) ∧ decodeBytes [0xF9, 0x1E] = .ok (.addIVx 9, []) ∧
    decodeBytes [0xFA, 0x29] = .ok (.ldFVx 0xA, []) ∧ decodeBytes [0xFB, 0x33] = .ok (.ldBVx 0xB, []) ∧
    decodeBytes [0xFC, 0x55] = .ok (.ldMemVx 0xC, []) ∧ decodeBytes [0xFD, 0x65] = .ok (.ldVxMem 0xD, []) := by decide

/-- The words of V-F6 and one more of each unassigned family (R55). -/
theorem test_decode_rejects_unassigned :
    decodeWord 0x0000 = .error (.unassigned 0x0000) ∧ decodeWord 0x00E1 = .error (.unassigned 0x00E1) ∧
    decodeWord 0x01E0 = .error (.unassigned 0x01E0) ∧ decodeWord 0x5121 = .error (.unassigned 0x5121) ∧
    decodeWord 0x8008 = .error (.unassigned 0x8008) ∧ decodeWord 0x800F = .error (.unassigned 0x800F) ∧
    decodeWord 0x9AB1 = .error (.unassigned 0x9AB1) ∧ decodeWord 0xE000 = .error (.unassigned 0xE000) ∧
    decodeWord 0xF0FF = .error (.unassigned 0xF0FF) ∧ decodeBytes [0x60] = .error .tooFewBytes := by decide

/-- R54 has 34 rows, and each row's own pattern matches it. -/
theorem test_opcode_table_rows :
    opcodeTable.length = 34 ∧ ∀ r ∈ opcodeTable, r.matches r.bits = true := by decide

/-- Lines of programs P3, P4, P7 (R60). -/
theorem test_assembly :
    (Instr.ldImm 1 0x05).assembly = "LD V1, 0x05" ∧ (Instr.jp 0x20C).assembly = "JP 0x20C" ∧
    (Instr.addReg 0 1).assembly = "ADD V0, V1" ∧ (Instr.ldMemVx 2).assembly = "LD [I], V2" ∧
    (Instr.ldVxDt 1).assembly = "LD V1, DT" ∧ (Instr.ldBVx 0).assembly = "LD B, V0" := by decide

/-! ### One step -/

/-- The state after `init` with `word` at 0x200, the listed registers set, and `rnd = A7` for the first cycle. -/
def start (word : Nat) (regs : List (Reg × Byte)) : State :=
  { regs.foldl (fun s p => s.setV p.1 p.2) (State.reset.withFetchWord 16 word) with inputs := [⟨[], 0xA7⟩] }

/-- One step from `s` ends in a state that meets `p`. -/
def lands (s : State) (p : State → Bool) : Bool :=
  match step s with
  | .next t => p t
  | .fault _ => false
  | .refused _ => false

/-- The pixels that are set, as `(x, y)`, among those listed. -/
def lit (s : State) (ps : List (Fin 64 × Fin 32)) : List (Fin 64 × Fin 32) := ps.filter (fun p => s.getPixel p.1 p.2)

/-- How many pixels are set. -/
def litCount (s : State) : Nat := (s.fb.toList.map (fun row => row.toList.count true)).sum

/-- V-C7, E8. -/
theorem test_ret_pops : lands { start 0x00EE [] with stack := [0x202, 0x308] }
    (fun t => t.pc == 0x308 && t.stack == [0x202] && t.fault == .clear) = true := by decide

/-- V-X1. -/
theorem test_ret_underflows : lands (start 0x00EE [])
    (fun t => t.pc == 0x200 && t.stack == [] && t.fault == .stackUnderflow) = true := by decide

/-- V-C4. -/
theorem test_jp : lands (start 0x1FFF []) (fun t => t.pc == 0xFFF && t.stack == []) = true := by decide

/-- V-C5. -/
theorem test_call_pushes : lands (start 0x2204 []) (fun t => t.pc == 0x204 && t.stack == [0x202]) = true := by decide

/-- V-X5: a full stack of capacity 2. -/
theorem test_call_overflows :
    lands { start 0x2200 [] with stack := [0x202, 0x202], config := { Config.default with stackCapacity := 2 } }
      (fun t => t.pc == 0x200 && t.stack == [0x202, 0x202] && t.fault == .stackOverflow) = true := by decide

/-- V-C8, V-C9. -/
theorem test_seImm : lands (start 0x332A [(3, 0x2A)]) (fun t => t.pc == 0x204) = true ∧
    lands (start 0x332A [(3, 0x2B)]) (fun t => t.pc == 0x202) = true := by decide

/-- V-C11, V-C12. -/
theorem test_sneImm : lands (start 0x432A [(3, 0x2A)]) (fun t => t.pc == 0x202) = true ∧
    lands (start 0x432A []) (fun t => t.pc == 0x204) = true := by decide

/-- V-C13, V-C14. -/
theorem test_seReg : lands (start 0x5120 [(1, 7), (2, 7)]) (fun t => t.pc == 0x204) = true ∧
    lands (start 0x5120 [(1, 7), (2, 8)]) (fun t => t.pc == 0x202) = true := by decide

/-- V-C16, V-C17. -/
theorem test_sneReg : lands (start 0x9120 [(1, 7), (2, 8)]) (fun t => t.pc == 0x204) = true ∧
    lands (start 0x9120 [(1, 7), (2, 7)]) (fun t => t.pc == 0x202) = true := by decide

/-- V-C20, V-C21. -/
theorem test_jpV0 : lands (start 0xBFFF [(0, 0xFF)]) (fun t => t.pc == 0x0FE) = true ∧
    lands (start 0xB2FF [(0, 0x02), (2, 0x50)]) (fun t => t.pc == 0x301) = true := by decide

/-- V-A2; V-F2: the advance wraps. -/
theorem test_ldImm : lands (start 0x6FAB []) (fun t => t.getV vf == 0xAB && t.pc == 0x202) = true ∧
    lands { ({ State.reset with pc := 0xFFE } : State).withFetchWord 16 0x6005 with inputs := [⟨[], 0⟩] }
      (fun t => t.getV 0 == 0x05 && t.pc == 0) = true := by decide

/-- V-F3: the second byte is fetched from address 0. -/
theorem test_fetch_wraps :
    lands { ({ State.reset with pc := 0xFFF } : State).withFetchWord 16 0x612A with inputs := [⟨[], 0⟩] }
      (fun t => t.getV 1 == 0x2A && t.pc == 1 && t.memRead 0 == 0x2A && t.memRead 0xFFF == 0x61) = true := by decide

/-- V-A4. -/
theorem test_addImm : lands (start 0x7001 [(0, 0xFF), (vf, 7)]) (fun t => t.getV 0 == 0 && t.getV vf == 7) = true := by
  decide

/-- V-A6. -/
theorem test_ldReg : lands (start 0x8010 [(1, 0x33)]) (fun t => t.getV 0 == 0x33 && t.getV 1 == 0x33) = true := by decide

/-- V-A7. -/
theorem test_or : lands (start 0x8011 [(0, 0xF0), (1, 0x0F), (vf, 9)])
    (fun t => t.getV 0 == 0xFF && t.getV vf == 9) = true := by decide

/-- V-A8. -/
theorem test_and : lands (start 0x8012 [(0, 0xF0), (1, 0x3C), (vf, 9)])
    (fun t => t.getV 0 == 0x30 && t.getV vf == 9) = true := by decide

/-- V-A9. -/
theorem test_xor : lands (start 0x8013 [(0, 0xF0), (1, 0x3C), (vf, 9)])
    (fun t => t.getV 0 == 0xCC && t.getV vf == 9) = true := by decide

/-- V-A11 (E9), V-A12. -/
theorem test_addReg_carry :
    lands (start 0x8014 [(0, 0xFF), (1, 0x01)]) (fun t => t.getV 0 == 0 && t.getV vf == 1) = true ∧
    lands (start 0x8014 [(0, 0x80), (1, 0x7F)]) (fun t => t.getV 0 == 0xFF && t.getV vf == 0) = true := by decide

/-- V-A15, V-A16: `VF` as destination and as operand. -/
theorem test_addReg_vf :
    lands (start 0x8F14 [(vf, 0xC8), (1, 0x64)]) (fun t => t.getV vf == 1) = true ∧
    lands (start 0x80F4 [(0, 0xFF), (vf, 1)]) (fun t => t.getV 0 == 0 && t.getV vf == 1) = true := by decide

/-- V-A17, V-A18, V-A21. -/
theorem test_sub : lands (start 0x8015 [(0, 5), (1, 7)]) (fun t => t.getV 0 == 0xFE && t.getV vf == 0) = true ∧
    lands (start 0x8015 [(0, 7), (1, 7)]) (fun t => t.getV 0 == 0 && t.getV vf == 1) = true ∧
    lands (start 0x8F15 [(vf, 5), (1, 3)]) (fun t => t.getV vf == 1) = true := by decide

/-- V-A22, V-A23. -/
theorem test_subn : lands (start 0x8017 [(0, 5), (1, 7)]) (fun t => t.getV 0 == 2 && t.getV vf == 1) = true ∧
    lands (start 0x8017 [(0, 7), (1, 5)]) (fun t => t.getV 0 == 0xFE && t.getV vf == 0) = true := by decide

/-- V-A25, V-A26: `SHIFT_SOURCE` is VX, then VY. -/
theorem test_shr :
    lands (start 0x8016 [(0, 0x05), (1, 0xF0)])
      (fun t => t.getV 0 == 0x02 && t.getV vf == 1 && t.getV 1 == 0xF0) = true ∧
    lands { start 0x8016 [(0, 0x05), (1, 0xF0)] with config := { Config.default with shiftSource := .vy } }
      (fun t => t.getV 0 == 0x78 && t.getV vf == 0 && t.getV 1 == 0xF0) = true := by decide

/-- V-A30, V-A31, V-A32. -/
theorem test_shl : lands (start 0x800E [(0, 0x7F)]) (fun t => t.getV 0 == 0xFE && t.getV vf == 0) = true ∧
    lands { start 0x801E [(0, 0x01), (1, 0xC0)] with config := { Config.default with shiftSource := .vy } }
      (fun t => t.getV 0 == 0x80 && t.getV vf == 1) = true ∧
    lands (start 0x8FFE [(vf, 0x80)]) (fun t => t.getV vf == 1) = true := by decide

/-- V-A33, V-A34, V-A35. -/
theorem test_rnd : lands (start 0xC00F []) (fun t => t.getV 0 == 0x07) = true ∧
    lands (start 0xC0FF []) (fun t => t.getV 0 == 0xA7) = true ∧
    lands (start 0xC000 [(0, 1)]) (fun t => t.getV 0 == 0) = true := by decide

/-- V-I1. -/
theorem test_ldI : lands (start 0xA300 []) (fun t => t.i == 0x300 && t.pc == 0x202) = true := by decide

/-- V-I3, V-I5a, V-I5c. -/
theorem test_addIVx :
    lands { start 0xF01E [(0, 1)] with i := 0xFFF } (fun t => t.i == 0 && t.getV vf == 1) = true ∧
    lands { start 0xFF1E [(vf, 1)] with i := 0xFFF } (fun t => t.i == 0 && t.getV vf == 1) = true ∧
    lands { start 0xF01E [(vf, 1)] with i := 0x300 } (fun t => t.i == 0x300 && t.getV vf == 1) = true := by decide

/-- V-I4: exactly 0xFFF is no overflow. -/
theorem test_addIVx_edge :
    lands { start 0xF01E [(0, 0xFF)] with i := 0xF00 } (fun t => t.i == 0xFFF && t.getV vf == 0) = true := by decide

/-- V-I7, V-I9. -/
theorem test_ldFVx : lands (start 0xF029 [(0, 0x0F)]) (fun t => t.i == 0x04B) = true ∧
    lands (start 0xF029 [(0, 0xFF)]) (fun t => t.i == 0x4FB) = true := by decide

/-- V-I10 (E5), V-I11. -/
theorem test_ldBVx :
    lands { start 0xF033 [(0, 123)] with i := 0x300 }
      (fun t => t.memRead 0x300 == 1 && t.memRead 0x301 == 2 && t.memRead 0x302 == 3 && t.memRead 0x303 == 0) = true ∧
    lands { start 0xF033 [(0, 0xFF)] with i := 0xFFE }
      (fun t => t.memRead 0xFFE == 2 && t.memRead 0xFFF == 5 && t.memRead 0 == 5 && t.memRead 1 == 0x90) = true := by
  decide

/-- V-I14, V-I15. -/
theorem test_ldMemVx :
    lands { start 0xF255 [(0, 1), (1, 2), (2, 3), (3, 4)] with i := 0x310 }
      (fun t => t.memRead 0x310 == 1 && t.memRead 0x311 == 2 && t.memRead 0x312 == 3 && t.memRead 0x313 == 0 &&
        t.i == 0x310) = true ∧
    lands { start 0xF155 [(0, 0xAA), (1, 0xBB)] with i := 0xFFF }
      (fun t => t.memRead 0xFFF == 0xAA && t.memRead 0 == 0xBB) = true := by decide

/-- V-I18, V-I17 (they read the default font). -/
theorem test_ldVxMem :
    lands (start 0xF265 [(3, 0x77)])
      (fun t => t.getV 0 == 0xF0 && t.getV 1 == 0x90 && t.getV 2 == 0x90 && t.getV 3 == 0x77) = true ∧
    lands { (start 0xF165 []).memWrite 0xFFF 0x12 with i := 0xFFF }
      (fun t => t.getV 0 == 0x12 && t.getV 1 == 0xF0 && t.i == 0xFFF) = true := by decide

/-- V-D1. -/
theorem test_cls : lands (((start 0x00E0 [(vf, 5)]).setPixel 0 0 true).setPixel 63 31 true)
    (fun t => lit t [(0, 0), (63, 31)] == [] && t.getV vf == 5) = true := by decide

/-- V-D2: clipped at the corner. V-D8: a collision in row 0 is kept. -/
theorem test_drw_clips :
    lands { (start 0xD011 [(0, 62), (1, 31)]).memWrite 0x300 0xFF with i := 0x300 }
      (fun t => lit t [(62, 31), (63, 31)] == [(62, 31), (63, 31)] && litCount t == 2 && t.getV vf == 0) = true := by
  decide

theorem test_drw_collides :
    lands { (((start 0xD012 []).memWrite 0x300 0x80).memWrite 0x301 0x80).setPixel 0 0 true with i := 0x300 }
      (fun t => lit t [(0, 0), (0, 1)] == [(0, 1)] && litCount t == 1 && t.getV vf == 1) = true := by decide

/-- V-K1, V-K2, V-K3. -/
theorem test_skp : lands ((start 0xE09E [(0, 5)]).setKey 5 true) (fun t => t.pc == 0x204) = true ∧
    lands (start 0xE09E [(0, 5)]) (fun t => t.pc == 0x202) = true ∧
    lands ((start 0xE09E [(0, 0x15)]).setKey 5 true) (fun t => t.pc == 0x202) = true := by decide

/-- V-K4, V-K5. -/
theorem test_sknp : lands ((start 0xE0A1 [(0, 0x15)]).setKey 5 true) (fun t => t.pc == 0x204) = true ∧
    lands ((start 0xE0A1 [(0, 5)]).setKey 5 true) (fun t => t.pc == 0x202) = true := by decide

/-- V-K12. -/
theorem test_ldVxDt : lands { start 0xF007 [] with dt := 0x3C } (fun t => t.getV 0 == 0x3C && t.dt == 0x3C) = true := by
  decide

/-- V-K9; P7, events 3 to 5: a tick and a key event before the cycle. -/
theorem test_ldVxK_waits :
    lands (start 0xF00A []) (fun t => t.pc == 0x200 && t.getV 0 == 0) = true ∧
    lands { start 0xF00A [] with inputs := [⟨[.tickTimers, .setKey 7 true], 0⟩] }
      (fun t => t.pc == 0x202 && t.getV 0 == 7) = true := by decide

/-- V-K8. -/
theorem test_ldVxK_lowest :
    lands (((start 0xF00A []).setKey 9 true).setKey 3 true) (fun t => t.getV 0 == 3 && t.pc == 0x202) = true := by decide

/-- V-K13. -/
theorem test_ldDtVx : lands (start 0xF015 [(0, 5)]) (fun t => t.dt == 5 && t.st == 0) = true := by decide

/-- V-K14. -/
theorem test_ldStVx :
    lands (start 0xF018 [(0, 0x1E)]) (fun t => t.st == 0x1E && t.dt == 0 && t.readSound) = true := by decide

/-- V-F6, V-F7: an unassigned word under both policies. -/
theorem test_unassigned_word :
    lands (start 0x5121 []) (fun t => t == { (start 0x5121 []).deliver with pc := 0x202 }) = true ∧
    (start 0x5121 []).cycleStatus = .unknown 0x5121 ∧
    ({ start 0x5121 [] with config := { Config.default with unknownOpcodePolicy := .silent } } : State).cycleStatus =
      .retired := by decide

/-- V-X1, V-K9, V-F8: the other statuses. -/
theorem test_cycle_status :
    (start 0x00EE []).cycleStatus = .faulted .stackUnderflow ∧ (start 0xF00A []).cycleStatus = .waiting ∧
    (start 0x6001 []).cycleStatus = .retired ∧
    ({ start 0x6001 [] with fault := .stackOverflow } : State).cycleStatus = .faulted .stackOverflow := by decide

/-- V-X4: after a fault nothing runs, but ticks and keys still act. -/
theorem test_latched_fault :
    lands { start 0x6001 [] with fault := .stackUnderflow, dt := 3, inputs := [⟨[.tickTimers, .setKey 1 true], 0⟩] }
      (fun t => t.pc == 0x200 && t.getV 0 == 0 && t.dt == 2 && t.getKey 1 && t.fault == .stackUnderflow) = true := by
  decide

/-- V-K15, V-K16. -/
theorem test_tick :
    ({ State.reset with dt := 5, st := 1 } : State).tickTimers.dt = 4 ∧
    ({ State.reset with dt := 5, st := 1 } : State).tickTimers.st = 0 ∧
    State.reset.tickTimers.dt = 0 ∧ State.reset.tickTimers.st = 0 := by decide

/-- V-L1, V-L2, V-L4. -/
theorem test_init_and_load :
    State.reset.memRead 0 = 0xF0 ∧ State.reset.memRead 0x4F = 0x80 ∧ State.reset.memRead 0x50 = 0 ∧
    (State.reset.load [0x60, 0x0A, 0x70, 0x05]).memRead 0x202 = 0x70 ∧
    (State.reset.load [0x60, 0x0A, 0x70, 0x05]).memRead 0x204 = 0 := by decide

/-- V-L3, V-L4. -/
theorem test_program_space :
    programFits (List.replicate 3584 0xAA) = true ∧ programFits (List.replicate 3585 0xAA) = false := by
  simp only [programFits, List.length_replicate]; decide

/-! ### Witnesses: a case that meets all the hypotheses of each statement that has some -/

/-- A state of the invariant with `PC` and `I` at the top of memory, one entry on the stack, one byte of memory that is
not its reset contents, key 15 pressed, and one input listed. -/
def sample : State :=
  { State.reset with
    v := Vector.replicate 16 0x15
    i := 0xFFF
    pc := 0xFFF
    stack := [0xFFF]
    dt := 0xFF
    st := 1
    keys := (Vector.replicate 16 false).set 15 true
    mem := [(0x300, 0x80)]
    inputs := [⟨[.tickTimers, .setKey 0 true], 0xFF⟩] }

/-- The invariant is not empty outside reset. -/
theorem witness_invariant : sample.Inv where
  pc_lt := by decide
  i_lt := by decide
  depth_le := show 1 ≤ 16 by decide
  entries_lt a ha := by rw [List.mem_singleton.mp ha]; decide
  mem_wf := by decide

theorem witness_DecodeOfEncodeIsTheInstruction :
    (Instr.drw 15 15 15).wellFormed = true ∧ (Instr.jp 4095).wellFormed = true ∧ (Instr.jp 0).wellFormed = true := by
  decide

theorem witness_EncodeOfDecodeIsTheWord : decodeWord 0xDFFF = .ok (.drw 15 15 15) := by decide

/-- A decoded word, a matching row, and a rejected word. -/
theorem witness_DecodeSelectsTheMatchingRow :
    decodeWord 0xFF65 = .ok (.ldVxMem 15) ∧
    (⟨"LD_VX_MEM", 0xF065, 0xF0FF⟩ ∈ opcodeTable ∧ OpcodeRow.matches ⟨"LD_VX_MEM", 0xF065, 0xF0FF⟩ 0xFF65 = true) ∧
    decodeWord 0x0000 = .error (.unassigned 0x0000) := by decide

theorem witness_OpcodeRowsAreDisjoint :
    ⟨"JP", 0x1000, 0xF000⟩ ∈ opcodeTable ∧ OpcodeRow.matches ⟨"JP", 0x1000, 0xF000⟩ 0x1FFF = true := by decide

/-- The premises of `DecodesRow`: one word of each mask (0xFFFF, 0xF000, 0xF00F, 0xF0FF) under which rows match. -/
theorem witness_DecodesRow :
    (0x00EE : Word) &&& 0xFFFF = 0x00EE ∧ (0x1FFF : Word) &&& 0xF000 = 0x1000 ∧
    (0x8FF4 : Word) &&& 0xF00F = 0x8004 ∧ (0xFF55 : Word) &&& 0xF0FF = 0xF055 := by decide

/-- A decoded word; the clause on a cycle with no input listed. -/
theorem witness_StepRunsTheDecodedInstruction :
    State.reset.inputs = [] ∧
    (start 0x1FFF []).fault = .clear ∧
    decodeBytes [(start 0x1FFF []).memRead (start 0x1FFF []).pc.toNat,
      (start 0x1FFF []).memRead ((start 0x1FFF []).pc.toNat + 1)] = .ok (.jp 0xFFF, []) := by decide

/-- Both clauses: the policies `diagnose` and `silent`. -/
theorem witness_UnassignedWordOnlyAdvancesPc :
    (start 0x8008 []).fault = .clear ∧ decodeWord (start 0x8008 []).fetchWord = .error (.unassigned 0x8008) ∧
    (start 0x8008 []).config.unknownOpcodePolicy = .diagnose ∧
    ({ start 0x8008 [] with config := { Config.default with unknownOpcodePolicy := .silent } } : State).fault = .clear ∧
    decodeWord ({ start 0x8008 [] with config := { Config.default with unknownOpcodePolicy := .silent } } : State).fetchWord =
      .error (.unassigned 0x8008) := by decide

theorem witness_StoredWordIsRunByTheNextStep :
    sample.Inv ∧ decodeTableWord 16 0xD125 = some (.drw 1 2 5) := ⟨witness_invariant, by decide⟩

/-- A stack of one entry at the top of memory, and an empty one. -/
theorem witness_RetPopsTheNewestReturnAddress :
    sample.stack = [] ++ [0xFFF] ∧ (0xFFF : Word).toNat < 4096 ∧ State.reset.stack = [] := by decide

theorem witness_JpSetsPcAlone : 0 < 4096 ∧ 4095 < 4096 := by decide

/-- The deepest stack that is not full, and a full one. -/
theorem witness_CallPushesTheAdvancedPc :
    ({ sample with stack := List.replicate 15 0x202 } : State).stack.length ≠ sample.config.stackCapacity ∧
    ({ sample with stack := List.replicate 16 0x202 } : State).stack.length = sample.config.stackCapacity := by decide

/-- A word of each of the two families with `N` not 0. -/
theorem witness_RegisterSkipsMovePcAlone :
    (fieldF 0x5121 = 0x5 ∧ fieldN 0x5121 ≠ 0) ∧ fieldF 0x9ABF = 0x9 ∧ fieldN 0x9ABF ≠ 0 := by decide

theorem witness_CallThenRetReturnsAfterTheCall :
    sample.stack.length < sample.config.stackCapacity ∧
    ∃ t w, exec (.call 0xFFF) sample = .next t ∧ exec .ret t = .next w := ⟨by decide, _, _, rfl, rfl⟩

theorem witness_ShiftsWriteResultThenBitShiftedOut :
    sample.config.shiftSource = .vx ∧
    ({ sample with config := { Config.default with shiftSource := .vy } } : State).config.shiftSource = .vy := by decide

theorem witness_RndWritesTheMaskedRandomByte :
    sample.inputs = [⟨[.tickTimers, .setKey 0 true], 0xFF⟩] ∧ State.reset.inputs = [] := by decide

theorem witness_LdISetsTheIndex : 0 < 4096 ∧ 4095 < 4096 := by decide

theorem witness_BcdStoresTheDecimalDigits : sample.Inv := witness_invariant

theorem witness_RegisterDumpStoresV0ToVx : sample.Inv := witness_invariant

/-- A dump that wraps from 0xFFF to 0, and a load from the same memory with the registers cleared between. -/
theorem witness_DumpThenLoadGivesTheRegistersBack :
    sample.Inv ∧ ∃ t w, exec (.ldMemVx 15) sample = .next t ∧
      KeepsMemory t { t with v := Vector.replicate 16 0 } ∧
      exec (.ldVxMem 15) { t with v := Vector.replicate 16 0 } = .next w :=
  ⟨witness_invariant, _, _, rfl, fun _ => rfl, rfl⟩

/-- Drawing where no pixel is set, twice from the same registers. -/
theorem witness_DrawingTwiceRestoresTheDisplay :
    ∃ t w, exec (.drw 0 1 2) sample = .next t ∧ exec (.drw 0 1 2) t = .next w ∧
      t.originX 0 = sample.originX 0 ∧ t.originY 1 = sample.originY 1 := ⟨_, _, rfl, rfl, by decide, by decide⟩

/-- A collision and none, for the two clauses on `VF`. -/
theorem witness_DrwTogglesTheSpriteAndReportsCollision :
    (({ sample with i := 0x300 } : State).setPixel 21 21 true).spriteBit 21 21 1 21 21 = true ∧
    (({ sample with i := 0x300 } : State).setPixel 21 21 true).getPixel 21 21 = true ∧
    (sample.getV 0).toNat % 64 = 21 ∧ (sample.getV 1).toNat % 32 = 21 ∧
    ∀ px py, State.reset.spriteBit 0 0 0 px py = true → State.reset.getPixel px py = false :=
  ⟨by decide, by decide, by decide, by decide, fun px py h => by simp [State.spriteBit] at h⟩

/-- Key 15 pressed and named by `V0 = 15`; `V0 = 0x15` names no key. -/
theorem witness_KeySkipsMovePcAlone :
    KeyPressed (sample.setV 0 15) 0 ∧ ¬ KeyPressed sample 0 := by
  refine ⟨⟨15, by decide, by decide⟩, ?_⟩
  rintro ⟨k, hk, -⟩
  have h : (sample.getV 0).toNat = 0x15 := by decide
  omega

/-- No key; key 15 alone; keys 0 and 15. -/
theorem witness_KeyWaitHoldsThenStoresTheLowestKey :
    (∀ k, State.reset.getKey k = false) ∧
    (sample.getKey 15 = true ∧ ∀ j, j < 15 → sample.getKey j = false) ∧
    ((sample.setKey 0 true).getKey 0 = true ∧ ∀ j, j < 0 → (sample.setKey 0 true).getKey j = false) := by decide

theorem witness_PcAdvancesUnlessTheRuleAssignsIt :
    assignsNoPc (.ldImm 0 1) = true ∧ ∃ t, exec (.ldImm 0 1) sample = .next t := ⟨rfl, _, rfl⟩

theorem witness_RegistersChangeOnlyAsTheTableLists :
    ¬ mayWriteReg (.ldVxMem 14) 15 ∧ ∃ t, exec (.ldVxMem 14) sample = .next t := ⟨by simp [mayWriteReg], _, rfl⟩

theorem witness_OnlyTheStoresWriteMemory :
    (∃ t, exec (.ldVxMem 15) sample = .next t) ∧ (∀ x, Instr.ldVxMem 15 ≠ .ldBVx x) ∧
    ∀ x, Instr.ldVxMem 15 ≠ .ldMemVx x := ⟨⟨_, rfl⟩, by simp, by simp⟩

/-- An instruction; a cycle that skips an unassigned word, and one that a latched fault halts; a host operation. -/
theorem witness_DisplayChangesOnlyByClsDrwAndInit :
    ((∃ t, exec (.ldBVx 0) sample = .next t) ∧ Instr.ldBVx 0 ≠ .cls ∧ ∀ x y n, Instr.ldBVx 0 ≠ .drw x y n) ∧
    ((∃ t, executeCycle (start 0x00E1 []) = .next t) ∧ decodeWord (start 0x00E1 []).fetchWord ≠ .ok .cls ∧
      ∀ x y n, decodeWord (start 0x00E1 []).fetchWord ≠ .ok (.drw x y n)) ∧
    ((∃ t, executeCycle { start 0x00E0 [] with fault := .stackOverflow } = .next t) ∧
      ({ start 0x00E0 [] with fault := .stackOverflow } : State).fault ≠ .clear) ∧
    ((∃ t, hostOp (.load []) sample = .next t) ∧ HostOp.load [] ≠ .init ∧ ∀ b, HostOp.load [] ≠ .executeCycle b) :=
  have h : decodeWord (start 0x00E1 []).fetchWord = .error (.unassigned 0x00E1) := by decide
  ⟨⟨⟨_, rfl⟩, by simp, by simp⟩, ⟨⟨_, rfl⟩, by simp [h], by simp [h]⟩, ⟨⟨_, rfl⟩, by decide⟩,
    ⟨⟨_, rfl⟩, by simp, by simp⟩⟩

/-- An instruction that is neither call nor return; a call that leaves an entry below the top. -/
theorem witness_StackAndLatchChangeOnlyByCallAndRet :
    ((∃ t, exec (.jp 0) sample = .next t) ∧ Instr.jp 0 ≠ .ret ∧ ∀ nnn, Instr.jp 0 ≠ .call nnn) ∧
    ∃ t, exec (.call 0) sample = .next t ∧ 0 < sample.sp ∧ 0 < t.sp :=
  ⟨⟨⟨_, rfl⟩, by simp, by simp⟩, _, rfl, by decide, by decide⟩

theorem witness_IndexAndTimersChangeOnlyByTheirWriters :
    (∃ t, exec (.ldMemVx 15) sample = .next t) ∧
    ((∀ nnn, Instr.ldMemVx 15 ≠ .ldI nnn) ∧ (∀ x, Instr.ldMemVx 15 ≠ .addIVx x) ∧
      (∀ x, Instr.ldMemVx 15 ≠ .ldFVx x)) ∧
    (∀ x, Instr.ldMemVx 15 ≠ .ldDtVx x) ∧ ∀ x, Instr.ldMemVx 15 ≠ .ldStVx x :=
  ⟨⟨_, rfl⟩, ⟨by simp, by simp, by simp⟩, by simp, by simp⟩

theorem witness_NoInstructionWritesKeysOrConfiguration : ∃ t, exec (.ldVxK 15) sample = .next t := ⟨_, rfl⟩

theorem witness_OnlyRndReadsTheRandomByte :
    (∀ x nn, Instr.addReg 15 15 ≠ .rnd x nn) ∧ ∃ t, exec (.addReg 15 15) sample = .next t := ⟨by simp, _, rfl⟩

theorem witness_NoInstructionReadsTheSoundTimer :
    (∀ x, Instr.ldVxDt 15 ≠ .ldStVx x) ∧ ∃ t, exec (.ldVxDt 15) sample = .next t := ⟨by simp, _, rfl⟩

theorem witness_LatchedFaultHaltsUntilInit :
    ({ sample with fault := .stackUnderflow } : State).fault ≠ .clear ∧
    HostOp.load [] ≠ .init ∧ ∃ t, hostOp (.load []) { sample with fault := .stackUnderflow } = .next t :=
  ⟨by decide, by decide, _, rfl⟩

/-- An overflow and an underflow. -/
theorem witness_FaultingCycleChangesTheLatchAlone :
    (({ start 0x2200 [] with stack := List.replicate 16 0x202 } : State).fault = .clear ∧ ∃ t,
      executeCycle { start 0x2200 [] with stack := List.replicate 16 0x202 } = .next t ∧ t.fault ≠ .clear) ∧
    (start 0x00EE []).fault = .clear ∧ ∃ t, executeCycle (start 0x00EE []) = .next t ∧ t.fault ≠ .clear :=
  ⟨⟨by decide, _, rfl, by decide⟩, by decide, _, rfl, by decide⟩

/-- Every status is the status of a cycle that answers a next state. -/
theorem witness_StatusTellsWhatTheCycleDid :
    (start 0x00EE []).cycleStatus = .faulted .stackUnderflow ∧ (start 0xF00A []).cycleStatus = .waiting ∧
    (start 0xF0FF []).cycleStatus = .unknown 0xF0FF ∧ (∃ t, executeCycle (start 0x00EE []) = .next t) ∧
    (∃ t, executeCycle (start 0xF00A []) = .next t) ∧ ∃ t, executeCycle (start 0xF0FF []) = .next t :=
  ⟨by decide, by decide, by decide, ⟨_, rfl⟩, ⟨_, rfl⟩, ⟨_, rfl⟩⟩

theorem witness_StepKeepsTheInvariant : sample.Inv ∧ ∃ t, step sample = .next t := ⟨witness_invariant, _, rfl⟩

theorem witness_HostOperationsKeepTheInvariant :
    sample.Inv ∧ ∃ t, hostOp (.load [0x60, 0x0A]) sample = .next t := ⟨witness_invariant, _, rfl⟩

/-- Writing the reset contents removes the entry: two canonical memories that read alike. -/
theorem witness_CanonicalMemoriesThatReadAlikeAreEqual :
    Memory.wf Config.defaultFont sample.mem ∧
    Memory.wf Config.defaultFont
      (Memory.write Config.defaultFont (Memory.write Config.defaultFont sample.mem 0 1) 0 0xF0) ∧
    ∀ a, a < 4096 → Memory.read Config.defaultFont sample.mem a = Memory.read Config.defaultFont
      (Memory.write Config.defaultFont (Memory.write Config.defaultFont sample.mem 0 1) 0 0xF0) a :=
  ⟨by decide, by decide, fun _ _ => rfl⟩

/-- The largest program that fits, and one byte more. -/
theorem witness_LoadPlacesTheProgram :
    (List.replicate 3584 (0xAA : Byte)).length ≤ 3584 ∧ 3584 < (List.replicate 3585 (0xAA : Byte)).length := by
  simp only [List.length_replicate]; decide

theorem witness_StepIsTheHostsOperationsInOrder :
    sample.inputs = ⟨[.tickTimers, .setKey 0 true], 0xFF⟩ :: [] := by decide

end Sys2Proof.Tests
end

section
/-! PROOFS. Control flow (40_control_flow.md). -/

namespace Sys2Proof

open Sys2Proof.Machine Sys2Proof.Claims

/-- The first level of the decode gives all of family 1 to `JP` (R54). -/
theorem decodeWord_of_fieldF_eq_one {op : Word} (h : fieldF op = 1) : decodeWord op = .ok (.jp (fieldNNN op)) := by
  simp only [decodeWord, h]

/-- A write of `PC` does not wrap an address of the memory (R14). -/
theorem Machine.State.setPc_of_lt (s : State) {n : Nat} (hn : n < 4096) :
    s.setPc n = { s with pc := BitVec.ofNat 16 n } := by
  rw [State.setPc, Nat.mod_eq_of_lt hn]

@[simp] theorem Machine.exec_jp (nnn : Nat) (s : State) : exec (.jp nnn) s = .next (s.setPc nnn) := rfl

/-- Settles O13: the mask of the row fixes family 1, and a 12-bit address does not wrap. -/
theorem jpSetsPcAlone : Obligations.JpSetsPcAlone := by
  refine ⟨fun op hop => ?decodes, fun nnn s hn => ?jumps⟩
  case decodes => exact decodeWord_of_fieldF_eq_one (fieldF_of_family hop)
  case jumps => rw [exec_jp, s.setPc_of_lt hn]

end Sys2Proof
end

section
/-! PROOFS. Register loads and immediate add (41_load_alu_random.md). -/

namespace Sys2Proof

open Sys2Proof.Machine Sys2Proof.Claims

/-- The first level of the decode gives all of family 6 to `LD VX, NN` (R54). -/
theorem decodeWord_of_fieldF_eq_six {op : Word} (h : fieldF op = 6) :
    decodeWord op = .ok (.ldImm (fieldX op) (immNN op)) := by
  simp only [decodeWord, h]

/-- The first level of the decode gives all of family 7 to `ADD VX, NN` (R54). -/
theorem decodeWord_of_fieldF_eq_seven {op : Word} (h : fieldF op = 7) :
    decodeWord op = .ok (.addImm (fieldX op) (immNN op)) := by
  simp only [decodeWord, h]

/-- The first level of the decode hands family 8 to the second (R54, C4). -/
theorem decodeWord_of_fieldF_eq_eight {op : Word} (h : fieldF op = 8) : decodeWord op = decodeFamily8 op := by
  simp only [decodeWord, h]

theorem decodeFamily8_of_fieldN_eq_zero {op : Word} (h : fieldN op = 0) :
    decodeFamily8 op = .ok (.ldReg (fieldX op) (fieldY op)) := by
  simp only [decodeFamily8, h]

@[simp] theorem Machine.exec_ldImm (x : Reg) (nn : Byte) (s : State) :
    exec (.ldImm x nn) s = .next (s.advance.setV x nn) := rfl

/-- A byte keeps a number modulo 256, whether or not it is reduced first. -/
theorem byte_ofNat_mod (n : Nat) : BitVec.ofNat 8 (n % 256) = BitVec.ofNat 8 n :=
  BitVec.eq_of_toNat_eq (Nat.mod_mod n 256)

/-- The sum goes into `VX` modulo 256, and the carry nowhere (R81). -/
@[simp] theorem Machine.exec_addImm (x : Reg) (nn : Byte) (s : State) :
    exec (.addImm x nn) s =
      .next (s.advance.setV x (BitVec.ofNat 8 (((s.getV x).toNat + nn.toNat) % 256))) := by
  rw [byte_ofNat_mod]; rfl

@[simp] theorem Machine.exec_ldReg (x y : Reg) (s : State) :
    exec (.ldReg x y) s = .next (s.advance.setV x (s.getV y)) := rfl

/-- The advance and a write of one register change registers and `PC` alone. -/
theorem Claims.onlyRegsAndPc_advance_setV (s : State) (x : Reg) (b : Byte) :
    OnlyRegsAndPc s (s.advance.setV x b) :=
  ⟨rfl, fun a => by rw [State.setV_memRead, State.advance_memRead]⟩

/-- An instruction that advances and puts `b` into `VX` leaves every other register, `VF` among them. -/
theorem Claims.writesRegs_of_exec_eq_setV {i : Instr} {s : State} {x : Reg} {b : Byte}
    (h : exec i s = .next (s.advance.setV x b)) : WritesRegs i s (fun r => if r = x then b else s.getV r) :=
  ⟨_, h, fun r => by rw [State.getV_setV, State.advance_getV], onlyRegsAndPc_advance_setV s x b⟩

/-- Settles O19: each mask fixes the family (and `N` in family 8), and each of the three advances and writes `VX`. -/
theorem loadsAndImmediateAddWriteVxAlone : Obligations.LoadsAndImmediateAddWriteVxAlone := by
  refine ⟨fun op hop => ?ldImm, fun op hop => ?addImm, fun op hop => ?ldReg,
    fun x nn s => ⟨?writesLdImm, ?writesAddImm⟩, fun x y s => ?writesLdReg⟩
  case ldImm => exact decodeWord_of_fieldF_eq_six (fieldF_of_family hop)
  case addImm => exact decodeWord_of_fieldF_eq_seven (fieldF_of_family hop)
  case ldReg =>
    obtain ⟨hF, hN⟩ := fields_of_subN hop
    rw [decodeWord_of_fieldF_eq_eight hF, decodeFamily8_of_fieldN_eq_zero hN]
  case writesLdImm => exact writesRegs_of_exec_eq_setV (exec_ldImm x nn s)
  case writesAddImm => exact writesRegs_of_exec_eq_setV (exec_addImm x nn s)
  case writesLdReg => exact writesRegs_of_exec_eq_setV (exec_ldReg x y s)

end Sys2Proof
end

section
/-! PROOFS. Index and memory (42_index_and_memory.md). -/

namespace Sys2Proof

open Sys2Proof.Machine Sys2Proof.Claims

/-- The first level of the decode gives all of family `0xA` to `LD I` (R54). -/
theorem decodeWord_of_fieldF_eq_ten {op : Word} (h : fieldF op = 0xA) : decodeWord op = .ok (.ldI (fieldNNN op)) := by
  simp only [decodeWord, h]

@[simp] theorem Machine.exec_ldI (nnn : Nat) (s : State) : exec (.ldI nnn) s = .next (s.advance.setI nnn) := rfl

/-- A write of `I` does not wrap an address of the memory (R13). -/
theorem Machine.State.toNat_setI_i_of_lt (s : State) {n : Nat} (hn : n < 4096) : (s.setI n).i.toNat = n := by
  rw [State.setI_i, Nat.mod_eq_of_lt hn, BitVec.toNat_ofNat, Nat.mod_eq_of_lt (by omega)]

/-- The advance and a write of `I` change `I` and `PC` alone. -/
theorem Machine.State.advance_setI_eq (s : State) (n : Nat) :
    s.advance.setI n = { s with i := (s.advance.setI n).i, pc := (s.advance.setI n).pc } := rfl

/-- The advance and a write of `I` keep every byte of the memory. -/
theorem Claims.keepsMemory_advance_setI (s : State) (n : Nat) : KeepsMemory s (s.advance.setI n) :=
  fun a => by rw [State.setI_memRead, State.advance_memRead]

/-- Settles O25: the mask of the row fixes family `0xA`, and a 12-bit address goes into `I` unwrapped. -/
theorem ldISetsTheIndex : Obligations.LdISetsTheIndex := by
  refine ⟨fun op hop => ?decodes, fun nnn s hn => ⟨s.advance.setI nnn, exec_ldI nnn s, ?index, ?frame, ?memory⟩⟩
  case decodes => exact decodeWord_of_fieldF_eq_ten (fieldF_of_family hop)
  case index => exact s.advance.toNat_setI_i_of_lt hn
  case frame => exact s.advance_setI_eq nnn
  case memory => exact keepsMemory_advance_setI s nnn

end Sys2Proof
end

section
/-! PROOFS. Display (43_display.md). -/

namespace Sys2Proof

open Sys2Proof.Machine Sys2Proof.Claims

/-- The one word of the row of `CLS` (R54). -/
theorem decodeWord_cls : decodeWord 0x00E0 = .ok .cls := by decide

@[simp] theorem Machine.exec_cls (s : State) : exec .cls s = .next s.advance.clearDisplay := rfl

/-- The advance and the clearing change the display and `PC` alone. -/
theorem Machine.State.advance_clearDisplay_eq (s : State) :
    s.advance.clearDisplay = { s with fb := s.advance.clearDisplay.fb, pc := s.advance.clearDisplay.pc } := rfl

/-- The advance and the clearing keep every byte of the memory. -/
theorem Claims.keepsMemory_advance_clearDisplay (s : State) : KeepsMemory s s.advance.clearDisplay :=
  fun a => by rw [State.clearDisplay_memRead, State.advance_memRead]

/-- Settles O32: the row is the one word `00E0`, and after the advance `CLS` clears the display and nothing else. -/
theorem clsClearsEveryPixel : Obligations.ClsClearsEveryPixel := by
  refine ⟨fun op hop => ?decodes, fun s => ⟨s.advance.clearDisplay, exec_cls s, ?pixels, ?frame, ?memory⟩⟩
  case decodes => rw [eq_of_fixed hop, decodeWord_cls]
  case pixels => exact s.advance.getPixel_clearDisplay
  case frame => exact s.advance_clearDisplay_eq
  case memory => exact keepsMemory_advance_clearDisplay s

end Sys2Proof
end

section
/-! PROOFS. The encoding (30_encoding.md): the fields of an encoded word, the rows, the decoder and the encoder. -/

namespace Sys2Proof

open Sys2Proof.Machine Sys2Proof.Claims
open Sys2Proof.Laws.EncodesInRow (family_row subN_row subNN_row nibble_encodeNNN nibble_encodeXNN nibble_encodeXYN)

/-! ### The fields of an encoded word -/

theorem fieldNNN_encodeNNN {f nnn : Nat} (hf : f < 16) (hn : nnn < 4096) : fieldNNN (encodeNNN f nnn) = nnn := by
  simp only [fieldNNN, toNat_encodeNNN hf hn]; omega

theorem fieldX_encodeXNN {f nn : Nat} (x : Reg) (hf : f < 16) (hn : nn < 256) : fieldX (encodeXNN f x nn) = x := by
  apply Fin.ext
  simp only [fieldX, toNat_encodeXNN x hf hn]; omega

theorem fieldNN_encodeXNN {f nn : Nat} (x : Reg) (hf : f < 16) (hn : nn < 256) : fieldNN (encodeXNN f x nn) = nn := by
  simp only [fieldNN, toNat_encodeXNN x hf hn]; omega

theorem immNN_encodeXNN {f : Nat} (x : Reg) (hf : f < 16) (nn : Byte) : immNN (encodeXNN f x nn.toNat) = nn := by
  rw [immNN, fieldNN_encodeXNN x hf nn.isLt, BitVec.ofNat_toNat, BitVec.setWidth_eq]

theorem fieldX_encodeXYN {f n : Nat} (x y : Reg) (hf : f < 16) (hn : n < 16) : fieldX (encodeXYN f x y n) = x := by
  apply Fin.ext
  simp only [fieldX, toNat_encodeXYN x y hf hn]; omega

theorem fieldY_encodeXYN {f n : Nat} (x y : Reg) (hf : f < 16) (hn : n < 16) : fieldY (encodeXYN f x y n) = y := by
  apply Fin.ext
  simp only [fieldY, toNat_encodeXYN x y hf hn]; omega

theorem fieldN_encodeXYN {f n : Nat} (x y : Reg) (hf : f < 16) (hn : n < 16) : fieldN (encodeXYN f x y n) = n := by
  simp only [fieldN, toNat_encodeXYN x y hf hn]; omega

/-! ### The word of given fields -/

theorem fieldF_lt (op : Word) : fieldF op < 16 := Nat.mod_lt _ (by decide)

theorem fieldN_lt (op : Word) : fieldN op < 16 := Nat.mod_lt _ (by decide)

theorem fieldNN_lt (op : Word) : fieldNN op < 256 := Nat.mod_lt _ (by decide)

theorem fieldNNN_lt (op : Word) : fieldNNN op < 4096 := Nat.mod_lt _ (by decide)

@[simp] theorem toNat_immNN (op : Word) : (immNN op).toNat = fieldNN op :=
  Nat.mod_eq_of_lt (fieldNN_lt op)

theorem encodeNNN_fields (op : Word) : encodeNNN (fieldF op) (fieldNNN op) = op := by
  apply BitVec.eq_of_toNat_eq
  rw [toNat_encodeNNN (fieldF_lt op) (fieldNNN_lt op)]
  have := op.isLt
  simp only [fieldF, fieldNNN]; omega

theorem encodeXNN_fields (op : Word) : encodeXNN (fieldF op) (fieldX op) (fieldNN op) = op := by
  apply BitVec.eq_of_toNat_eq
  rw [toNat_encodeXNN _ (fieldF_lt op) (fieldNN_lt op)]
  have := op.isLt
  simp only [fieldF, fieldX, fieldNN]; omega

theorem encodeXYN_fields (op : Word) : encodeXYN (fieldF op) (fieldX op) (fieldY op) (fieldN op) = op := by
  apply BitVec.eq_of_toNat_eq
  rw [toNat_encodeXYN _ _ (fieldF_lt op) (fieldN_lt op)]
  have := op.isLt
  simp only [fieldF, fieldX, fieldY, fieldN]; omega

/-! ### One row of the table each: the decoder gives a matching word its instruction (R54) -/

/-- A row with mask 0xF000: the decoder looks at the family alone. -/
theorem decodesRow_family {bits : Word} {instr : Word → Instr} (f : Nat) (hf : nibble 3 bits = f)
    (dec : ∀ op, fieldF op = f → decodeWord op = .ok (instr op)) : DecodesRow bits 0xF000 instr :=
  fun op hop => dec op ((fieldF_of_family hop).trans hf)

/-- A row with mask 0xF00F: the decoder looks at the family and at `N`. -/
theorem decodesRow_subN {bits : Word} {instr : Word → Instr} (f n : Nat) (hf : nibble 3 bits = f)
    (hn : nibble 0 bits = n) (dec : ∀ op, fieldF op = f → fieldN op = n → decodeWord op = .ok (instr op)) :
    DecodesRow bits 0xF00F instr := fun op hop =>
  have ⟨hF, hN⟩ := fields_of_subN hop
  dec op (hF.trans hf) (hN.trans hn)

/-- A row with mask 0xF0FF: the decoder looks at the family and at `NN`. -/
theorem decodesRow_subNN {bits : Word} {instr : Word → Instr} (f nn : Nat) (hf : nibble 3 bits = f)
    (hnn : nibble 1 bits * 16 + nibble 0 bits = nn)
    (dec : ∀ op, fieldF op = f → fieldNN op = nn → decodeWord op = .ok (instr op)) :
    DecodesRow bits 0xF0FF instr := fun op hop =>
  have ⟨hF, hNN⟩ := fields_of_subNN hop
  dec op (hF.trans hf) (hNN.trans hnn)

theorem decodesRow_cls : DecodesRow 0x00E0 0xFFFF (fun _ => .cls) :=
  fun op hop => by rw [eq_of_fixed hop, decodeWord_cls]

theorem decodesRow_ret : DecodesRow 0x00EE 0xFFFF (fun _ => .ret) :=
  fun op hop => by rw [eq_of_fixed hop]; decide

theorem decodesRow_jp : DecodesRow 0x1000 0xF000 (fun op => .jp (fieldNNN op)) :=
  decodesRow_family 0x1 rfl fun _ hF => decodeWord_of_fieldF_eq_one hF

theorem decodesRow_call : DecodesRow 0x2000 0xF000 (fun op => .call (fieldNNN op)) :=
  decodesRow_family 0x2 rfl fun _ hF => by simp only [decodeWord, hF]

theorem decodesRow_seImm : DecodesRow 0x3000 0xF000 (fun op => .seImm (fieldX op) (immNN op)) :=
  decodesRow_family 0x3 rfl fun _ hF => by simp only [decodeWord, hF]

theorem decodesRow_sneImm : DecodesRow 0x4000 0xF000 (fun op => .sneImm (fieldX op) (immNN op)) :=
  decodesRow_family 0x4 rfl fun _ hF => by simp only [decodeWord, hF]

theorem decodesRow_seReg : DecodesRow 0x5000 0xF00F (fun op => .seReg (fieldX op) (fieldY op)) :=
  decodesRow_subN 0x5 0x0 rfl rfl fun _ hF hN => by simp only [decodeWord, hF, hN, if_true]

theorem decodesRow_ldImm : DecodesRow 0x6000 0xF000 (fun op => .ldImm (fieldX op) (immNN op)) :=
  decodesRow_family 0x6 rfl fun _ hF => decodeWord_of_fieldF_eq_six hF

theorem decodesRow_addImm : DecodesRow 0x7000 0xF000 (fun op => .addImm (fieldX op) (immNN op)) :=
  decodesRow_family 0x7 rfl fun _ hF => decodeWord_of_fieldF_eq_seven hF

theorem decodesRow_ldReg : DecodesRow 0x8000 0xF00F (fun op => .ldReg (fieldX op) (fieldY op)) :=
  decodesRow_subN 0x8 0x0 rfl rfl fun _ hF hN => by simp only [decodeWord, decodeFamily8, hF, hN]

theorem decodesRow_or : DecodesRow 0x8001 0xF00F (fun op => .or (fieldX op) (fieldY op)) :=
  decodesRow_subN 0x8 0x1 rfl rfl fun _ hF hN => by simp only [decodeWord, decodeFamily8, hF, hN]

theorem decodesRow_and : DecodesRow 0x8002 0xF00F (fun op => .and (fieldX op) (fieldY op)) :=
  decodesRow_subN 0x8 0x2 rfl rfl fun _ hF hN => by simp only [decodeWord, decodeFamily8, hF, hN]

theorem decodesRow_xor : DecodesRow 0x8003 0xF00F (fun op => .xor (fieldX op) (fieldY op)) :=
  decodesRow_subN 0x8 0x3 rfl rfl fun _ hF hN => by simp only [decodeWord, decodeFamily8, hF, hN]

theorem decodesRow_addReg : DecodesRow 0x8004 0xF00F (fun op => .addReg (fieldX op) (fieldY op)) :=
  decodesRow_subN 0x8 0x4 rfl rfl fun _ hF hN => by simp only [decodeWord, decodeFamily8, hF, hN]

theorem decodesRow_sub : DecodesRow 0x8005 0xF00F (fun op => .sub (fieldX op) (fieldY op)) :=
  decodesRow_subN 0x8 0x5 rfl rfl fun _ hF hN => by simp only [decodeWord, decodeFamily8, hF, hN]

theorem decodesRow_shr : DecodesRow 0x8006 0xF00F (fun op => .shr (fieldX op) (fieldY op)) :=
  decodesRow_subN 0x8 0x6 rfl rfl fun _ hF hN => by simp only [decodeWord, decodeFamily8, hF, hN]

theorem decodesRow_subn : DecodesRow 0x8007 0xF00F (fun op => .subn (fieldX op) (fieldY op)) :=
  decodesRow_subN 0x8 0x7 rfl rfl fun _ hF hN => by simp only [decodeWord, decodeFamily8, hF, hN]

theorem decodesRow_shl : DecodesRow 0x800E 0xF00F (fun op => .shl (fieldX op) (fieldY op)) :=
  decodesRow_subN 0x8 0xE rfl rfl fun _ hF hN => by simp only [decodeWord, decodeFamily8, hF, hN]

theorem decodesRow_sneReg : DecodesRow 0x9000 0xF00F (fun op => .sneReg (fieldX op) (fieldY op)) :=
  decodesRow_subN 0x9 0x0 rfl rfl fun _ hF hN => by simp only [decodeWord, hF, hN, if_true]

theorem decodesRow_ldI : DecodesRow 0xA000 0xF000 (fun op => .ldI (fieldNNN op)) :=
  decodesRow_family 0xA rfl fun _ hF => decodeWord_of_fieldF_eq_ten hF

theorem decodesRow_jpV0 : DecodesRow 0xB000 0xF000 (fun op => .jpV0 (fieldNNN op)) :=
  decodesRow_family 0xB rfl fun _ hF => by simp only [decodeWord, hF]

theorem decodesRow_rnd : DecodesRow 0xC000 0xF000 (fun op => .rnd (fieldX op) (immNN op)) :=
  decodesRow_family 0xC rfl fun _ hF => by simp only [decodeWord, hF]

theorem decodesRow_drw : DecodesRow 0xD000 0xF000 (fun op => .drw (fieldX op) (fieldY op) (fieldN op)) :=
  decodesRow_family 0xD rfl fun _ hF => by simp only [decodeWord, hF]

theorem decodesRow_skp : DecodesRow 0xE09E 0xF0FF (fun op => .skp (fieldX op)) :=
  decodesRow_subNN 0xE 0x9E rfl rfl fun _ hF hNN => by simp only [decodeWord, decodeFamilyE, hF, hNN]

theorem decodesRow_sknp : DecodesRow 0xE0A1 0xF0FF (fun op => .sknp (fieldX op)) :=
  decodesRow_subNN 0xE 0xA1 rfl rfl fun _ hF hNN => by simp only [decodeWord, decodeFamilyE, hF, hNN]

theorem decodesRow_ldVxDt : DecodesRow 0xF007 0xF0FF (fun op => .ldVxDt (fieldX op)) :=
  decodesRow_subNN 0xF 0x07 rfl rfl fun _ hF hNN => by simp only [decodeWord, decodeFamilyF, hF, hNN]

theorem decodesRow_ldVxK : DecodesRow 0xF00A 0xF0FF (fun op => .ldVxK (fieldX op)) :=
  decodesRow_subNN 0xF 0x0A rfl rfl fun _ hF hNN => by simp only [decodeWord, decodeFamilyF, hF, hNN]

theorem decodesRow_ldDtVx : DecodesRow 0xF015 0xF0FF (fun op => .ldDtVx (fieldX op)) :=
  decodesRow_subNN 0xF 0x15 rfl rfl fun _ hF hNN => by simp only [decodeWord, decodeFamilyF, hF, hNN]

theorem decodesRow_ldStVx : DecodesRow 0xF018 0xF0FF (fun op => .ldStVx (fieldX op)) :=
  decodesRow_subNN 0xF 0x18 rfl rfl fun _ hF hNN => by simp only [decodeWord, decodeFamilyF, hF, hNN]

theorem decodesRow_addIVx : DecodesRow 0xF01E 0xF0FF (fun op => .addIVx (fieldX op)) :=
  decodesRow_subNN 0xF 0x1E rfl rfl fun _ hF hNN => by simp only [decodeWord, decodeFamilyF, hF, hNN]

theorem decodesRow_ldFVx : DecodesRow 0xF029 0xF0FF (fun op => .ldFVx (fieldX op)) :=
  decodesRow_subNN 0xF 0x29 rfl rfl fun _ hF hNN => by simp only [decodeWord, decodeFamilyF, hF, hNN]

theorem decodesRow_ldBVx : DecodesRow 0xF033 0xF0FF (fun op => .ldBVx (fieldX op)) :=
  decodesRow_subNN 0xF 0x33 rfl rfl fun _ hF hNN => by simp only [decodeWord, decodeFamilyF, hF, hNN]

theorem decodesRow_ldMemVx : DecodesRow 0xF055 0xF0FF (fun op => .ldMemVx (fieldX op)) :=
  decodesRow_subNN 0xF 0x55 rfl rfl fun _ hF hNN => by simp only [decodeWord, decodeFamilyF, hF, hNN]

theorem decodesRow_ldVxMem : DecodesRow 0xF065 0xF0FF (fun op => .ldVxMem (fieldX op)) :=
  decodesRow_subNN 0xF 0x65 rfl rfl fun _ hF hNN => by simp only [decodeWord, decodeFamilyF, hF, hNN]

/-! ### Decoding what was encoded -/

/-- A word of format `NNN` is given back its address by its row (R52, R54). -/
theorem decodeWord_encodeNNN {bits : Word} {i : Nat → Instr} {f nnn : Nat}
    (row : DecodesRow bits 0xF000 (fun op => i (fieldNNN op))) (hf : nibble 3 bits = f) (low : bits.toNat % 4096 = 0)
    (hn : addressFits nnn = true) : decodeWord (encodeNNN f nnn) = .ok (i nnn) := by
  have hf' : f < 16 := hf ▸ Nat.mod_lt _ (by decide)
  have hn' : nnn < 4096 := of_decide_eq_true hn
  have inRow := eq_of_beq (family_row "" ((nibble_encodeNNN hf' hn').trans hf.symm) low)
  exact (row _ inRow).trans (by simp only [fieldNNN_encodeNNN hf' hn'])

/-- A word of format `XNN` is given back its register and its byte by its row (R52, R54). -/
theorem decodeWord_encodeXNN {bits : Word} {i : Reg → Byte → Instr} {f : Nat}
    (row : DecodesRow bits 0xF000 (fun op => i (fieldX op) (immNN op))) (hf : nibble 3 bits = f)
    (low : bits.toNat % 4096 = 0) (x : Reg) (nn : Byte) : decodeWord (encodeXNN f x nn.toNat) = .ok (i x nn) := by
  have hf' : f < 16 := hf ▸ Nat.mod_lt _ (by decide)
  have inRow := eq_of_beq (family_row "" ((nibble_encodeXNN x hf' nn.isLt).1.trans hf.symm) low)
  exact (row _ inRow).trans (by simp only [fieldX_encodeXNN x hf' nn.isLt, immNN_encodeXNN x hf' nn])

/-- A word of format `XY` is given back its registers by its row (R52, R54). -/
theorem decodeWord_encodeXY {bits : Word} {i : Reg → Reg → Instr} {f n : Nat}
    (row : DecodesRow bits 0xF00F (fun op => i (fieldX op) (fieldY op))) (hf : nibble 3 bits = f)
    (hn : nibble 0 bits = n) (mid : bits.toNat / 16 % 256 = 0) (x y : Reg) :
    decodeWord (encodeXYN f x y n) = .ok (i x y) := by
  have hf' : f < 16 := hf ▸ Nat.mod_lt _ (by decide)
  have hn' : n < 16 := hn ▸ Nat.mod_lt _ (by decide)
  obtain ⟨h3, h0⟩ := nibble_encodeXYN x y hf' hn'
  have inRow := eq_of_beq (subN_row "" (h3.trans hf.symm) (h0.trans hn.symm) mid)
  exact (row _ inRow).trans (by simp only [fieldX_encodeXYN x y hf' hn', fieldY_encodeXYN x y hf' hn'])

/-- A word of format `XYN` is given back its registers and its row count by its row (R52, R54). -/
theorem decodeWord_encodeXYN {bits : Word} {i : Reg → Reg → Nat → Instr} {f n : Nat}
    (row : DecodesRow bits 0xF000 (fun op => i (fieldX op) (fieldY op) (fieldN op))) (hf : nibble 3 bits = f)
    (low : bits.toNat % 4096 = 0) (x y : Reg) (hn : rowCountFits n = true) :
    decodeWord (encodeXYN f x y n) = .ok (i x y n) := by
  have hf' : f < 16 := hf ▸ Nat.mod_lt _ (by decide)
  have hn' : n < 16 := of_decide_eq_true hn
  have inRow := eq_of_beq (family_row "" ((nibble_encodeXYN x y hf' hn').1.trans hf.symm) low)
  exact (row _ inRow).trans (by
    simp only [fieldX_encodeXYN x y hf' hn', fieldY_encodeXYN x y hf' hn', fieldN_encodeXYN x y hf' hn'])

/-- A word of format `X` is given back its register by its row (R52, R54). -/
theorem decodeWord_encodeX {bits : Word} {i : Reg → Instr} {f nn : Nat}
    (row : DecodesRow bits 0xF0FF (fun op => i (fieldX op))) (hf : nibble 3 bits = f)
    (hnn : bits.toNat % 256 = nn) (mid : bits.toNat / 256 % 16 = 0) (x : Reg) :
    decodeWord (encodeXNN f x nn) = .ok (i x) := by
  have hf' : f < 16 := hf ▸ Nat.mod_lt _ (by decide)
  have hn' : nn < 256 := hnn ▸ Nat.mod_lt _ (by decide)
  obtain ⟨h3, h1, h0⟩ := nibble_encodeXNN x hf' hn'
  have b1 : nibble 1 bits = nn / 16 := by simp only [nibble]; omega
  have b0 : nibble 0 bits = nn % 16 := by simp only [nibble]; omega
  have inRow := eq_of_beq (subNN_row "" (h3.trans hf.symm) (h1.trans b1.symm) (h0.trans b0.symm) mid)
  exact (row _ inRow).trans (by simp only [fieldX_encodeXNN x hf' hn'])

/-- The decoder gives every well-formed instruction back, row by row of R54. -/
theorem decodeWord_encode {i : Instr} (h : i.wellFormed = true) : decodeWord (encode i) = .ok i := by
  cases i with
  | cls => exact decodesRow_cls _ (by decide)
  | ret => exact decodesRow_ret _ (by decide)
  | jp nnn => exact decodeWord_encodeNNN decodesRow_jp rfl rfl h
  | call nnn => exact decodeWord_encodeNNN decodesRow_call rfl rfl h
  | seImm x nn => exact decodeWord_encodeXNN decodesRow_seImm rfl rfl x nn
  | sneImm x nn => exact decodeWord_encodeXNN decodesRow_sneImm rfl rfl x nn
  | seReg x y => exact decodeWord_encodeXY decodesRow_seReg rfl rfl rfl x y
  | ldImm x nn => exact decodeWord_encodeXNN decodesRow_ldImm rfl rfl x nn
  | addImm x nn => exact decodeWord_encodeXNN decodesRow_addImm rfl rfl x nn
  | ldReg x y => exact decodeWord_encodeXY decodesRow_ldReg rfl rfl rfl x y
  | or x y => exact decodeWord_encodeXY decodesRow_or rfl rfl rfl x y
  | and x y => exact decodeWord_encodeXY decodesRow_and rfl rfl rfl x y
  | xor x y => exact decodeWord_encodeXY decodesRow_xor rfl rfl rfl x y
  | addReg x y => exact decodeWord_encodeXY decodesRow_addReg rfl rfl rfl x y
  | sub x y => exact decodeWord_encodeXY decodesRow_sub rfl rfl rfl x y
  | shr x y => exact decodeWord_encodeXY decodesRow_shr rfl rfl rfl x y
  | subn x y => exact decodeWord_encodeXY decodesRow_subn rfl rfl rfl x y
  | shl x y => exact decodeWord_encodeXY decodesRow_shl rfl rfl rfl x y
  | sneReg x y => exact decodeWord_encodeXY decodesRow_sneReg rfl rfl rfl x y
  | ldI nnn => exact decodeWord_encodeNNN decodesRow_ldI rfl rfl h
  | jpV0 nnn => exact decodeWord_encodeNNN decodesRow_jpV0 rfl rfl h
  | rnd x nn => exact decodeWord_encodeXNN decodesRow_rnd rfl rfl x nn
  | drw x y n => exact decodeWord_encodeXYN decodesRow_drw rfl rfl x y h
  | skp x => exact decodeWord_encodeX decodesRow_skp rfl rfl rfl x
  | sknp x => exact decodeWord_encodeX decodesRow_sknp rfl rfl rfl x
  | ldVxDt x => exact decodeWord_encodeX decodesRow_ldVxDt rfl rfl rfl x
  | ldVxK x => exact decodeWord_encodeX decodesRow_ldVxK rfl rfl rfl x
  | ldDtVx x => exact decodeWord_encodeX decodesRow_ldDtVx rfl rfl rfl x
  | ldStVx x => exact decodeWord_encodeX decodesRow_ldStVx rfl rfl rfl x
  | addIVx x => exact decodeWord_encodeX decodesRow_addIVx rfl rfl rfl x
  | ldFVx x => exact decodeWord_encodeX decodesRow_ldFVx rfl rfl rfl x
  | ldBVx x => exact decodeWord_encodeX decodesRow_ldBVx rfl rfl rfl x
  | ldMemVx x => exact decodeWord_encodeX decodesRow_ldMemVx rfl rfl rfl x
  | ldVxMem x => exact decodeWord_encodeX decodesRow_ldVxMem rfl rfl rfl x

/-- Settles O1: the two bytes of the encoding are one word again, and its row decodes it to the instruction. -/
theorem decodeOfEncodeIsTheInstruction : Obligations.DecodeOfEncodeIsTheInstruction := by
  intro i rest h
  simp only [encodeBytes, List.cons_append, List.nil_append, decodeBytes, wordOfBytes_highByte_lowByte,
    decodeWord_encode h]

end Sys2Proof
end

section
/-! PROOFS. The encoding (30_encoding.md): the word of a decoded instruction, the table of rows and the unassigned words. -/

namespace Sys2Proof

open Sys2Proof.Machine Sys2Proof.Claims

/-! ### The encoding of what was decoded -/

theorem encodeNNN_of_fieldF {op : Word} {f : Nat} (hF : fieldF op = f) : encodeNNN f (fieldNNN op) = op :=
  hF ▸ encodeNNN_fields op

theorem encodeXNN_immNN_of_fieldF {op : Word} {f : Nat} (hF : fieldF op = f) :
    encodeXNN f (fieldX op) (immNN op).toNat = op := by
  rw [toNat_immNN, ← hF, encodeXNN_fields]

theorem encodeXNN_of_fields {op : Word} {f nn : Nat} (hF : fieldF op = f) (hNN : fieldNN op = nn) :
    encodeXNN f (fieldX op) nn = op :=
  hF ▸ hNN ▸ encodeXNN_fields op

theorem encodeXYN_of_fields {op : Word} {f n : Nat} (hF : fieldF op = f) (hN : fieldN op = n) :
    encodeXYN f (fieldX op) (fieldY op) n = op :=
  hF ▸ hN ▸ encodeXYN_fields op

/-- `op` is the word of the well-formed instruction `i`. -/
def IsWordOf (op : Word) (i : Instr) : Prop := i.wellFormed = true ∧ encode i = op

theorem isWordOf_of_decodeFamily0 {op : Word} {i : Instr} (hF : fieldF op = 0x0) (h : decodeFamily0 op = .ok i) :
    IsWordOf op i := by
  have hop := encodeNNN_of_fieldF hF
  unfold decodeFamily0 at h
  split at h <;> cases h
  all_goals rename_i hNNN; exact ⟨rfl, by rw [← hop, hNNN]; rfl⟩

theorem isWordOf_of_decodeFamily8 {op : Word} {i : Instr} (hF : fieldF op = 0x8) (h : decodeFamily8 op = .ok i) :
    IsWordOf op i := by
  unfold decodeFamily8 at h
  split at h <;> cases h
  all_goals exact ⟨rfl, encodeXYN_of_fields hF ‹_›⟩

theorem isWordOf_of_decodeFamilyE {op : Word} {i : Instr} (hF : fieldF op = 0xE) (h : decodeFamilyE op = .ok i) :
    IsWordOf op i := by
  unfold decodeFamilyE at h
  split at h <;> cases h
  all_goals exact ⟨rfl, encodeXNN_of_fields hF ‹_›⟩

theorem isWordOf_of_decodeFamilyF {op : Word} {i : Instr} (hF : fieldF op = 0xF) (h : decodeFamilyF op = .ok i) :
    IsWordOf op i := by
  unfold decodeFamilyF at h
  split at h <;> cases h
  all_goals exact ⟨rfl, encodeXNN_of_fields hF ‹_›⟩

/-- Family by family, the decoder reads every bit of the word into the instruction or checks it (R51 to R54). -/
theorem isWordOf_of_decodeWord {op : Word} {i : Instr} (h : decodeWord op = .ok i) : IsWordOf op i := by
  have hNNN := decide_eq_true (fieldNNN_lt op)
  unfold decodeWord at h
  split at h
  next hF => exact isWordOf_of_decodeFamily0 hF h
  next hF => cases h; exact ⟨hNNN, encodeNNN_of_fieldF hF⟩
  next hF => cases h; exact ⟨hNNN, encodeNNN_of_fieldF hF⟩
  next hF => cases h; exact ⟨rfl, encodeXNN_immNN_of_fieldF hF⟩
  next hF => cases h; exact ⟨rfl, encodeXNN_immNN_of_fieldF hF⟩
  next hF => split at h <;> cases h; exact ⟨rfl, encodeXYN_of_fields hF ‹_›⟩
  next hF => cases h; exact ⟨rfl, encodeXNN_immNN_of_fieldF hF⟩
  next hF => cases h; exact ⟨rfl, encodeXNN_immNN_of_fieldF hF⟩
  next hF => exact isWordOf_of_decodeFamily8 hF h
  next hF => split at h <;> cases h; exact ⟨rfl, encodeXYN_of_fields hF ‹_›⟩
  next hF => cases h; exact ⟨hNNN, encodeNNN_of_fieldF hF⟩
  next hF => cases h; exact ⟨hNNN, encodeNNN_of_fieldF hF⟩
  next hF => cases h; exact ⟨rfl, encodeXNN_immNN_of_fieldF hF⟩
  next hF => cases h; exact ⟨decide_eq_true (fieldN_lt op), encodeXYN_of_fields hF rfl⟩
  next hF => exact isWordOf_of_decodeFamilyE hF h
  next =>
    have hlt := fieldF_lt op
    have hF : fieldF op = 0xF := by simp only [imp_false] at *; omega
    exact isWordOf_of_decodeFamilyF hF h

/-- Settles O2, by the families of the decoder. -/
theorem encodeOfDecodeIsTheWord : Obligations.EncodeOfDecodeIsTheWord :=
  fun _ _ h => isWordOf_of_decodeWord h

/-! ### The rows of the table -/

/-- The word of every well-formed instruction matches the row of R54 that bears its mnemonic. -/
theorem encodesInRow : ∀ i : Instr, Laws.EncodesInRow.Statement i
  | .cls => Laws.EncodesInRow.cls
  | .ret => Laws.EncodesInRow.ret
  | .jp nnn => Laws.EncodesInRow.jp nnn
  | .call nnn => Laws.EncodesInRow.call nnn
  | .seImm x nn => Laws.EncodesInRow.seImm x nn
  | .sneImm x nn => Laws.EncodesInRow.sneImm x nn
  | .seReg x y => Laws.EncodesInRow.seReg x y
  | .ldImm x nn => Laws.EncodesInRow.ldImm x nn
  | .addImm x nn => Laws.EncodesInRow.addImm x nn
  | .ldReg x y => Laws.EncodesInRow.ldReg x y
  | .or x y => Laws.EncodesInRow.or x y
  | .and x y => Laws.EncodesInRow.and x y
  | .xor x y => Laws.EncodesInRow.xor x y
  | .addReg x y => Laws.EncodesInRow.addReg x y
  | .sub x y => Laws.EncodesInRow.sub x y
  | .shr x y => Laws.EncodesInRow.shr x y
  | .subn x y => Laws.EncodesInRow.subn x y
  | .shl x y => Laws.EncodesInRow.shl x y
  | .sneReg x y => Laws.EncodesInRow.sneReg x y
  | .ldI nnn => Laws.EncodesInRow.ldI nnn
  | .jpV0 nnn => Laws.EncodesInRow.jpV0 nnn
  | .rnd x nn => Laws.EncodesInRow.rnd x nn
  | .drw x y n => Laws.EncodesInRow.drw x y n
  | .skp x => Laws.EncodesInRow.skp x
  | .sknp x => Laws.EncodesInRow.sknp x
  | .ldVxDt x => Laws.EncodesInRow.ldVxDt x
  | .ldVxK x => Laws.EncodesInRow.ldVxK x
  | .ldDtVx x => Laws.EncodesInRow.ldDtVx x
  | .ldStVx x => Laws.EncodesInRow.ldStVx x
  | .addIVx x => Laws.EncodesInRow.addIVx x
  | .ldFVx x => Laws.EncodesInRow.ldFVx x
  | .ldBVx x => Laws.EncodesInRow.ldBVx x
  | .ldMemVx x => Laws.EncodesInRow.ldMemVx x
  | .ldVxMem x => Laws.EncodesInRow.ldVxMem x

/-- The decoder gives every word that matches the row an instruction of the row's mnemonic. -/
def RowDecodes (r : OpcodeRow) : Prop :=
  ∀ op, r.matches op = true → ∃ i, decodeWord op = .ok i ∧ i.mnemonic = r.mnemonic

theorem RowDecodes.of_decodesRow {m : String} {bits mask : Word} {instr : Word → Instr}
    (row : DecodesRow bits mask instr) (hm : ∀ op, (instr op).mnemonic = m) : RowDecodes ⟨m, bits, mask⟩ :=
  fun op hop => ⟨instr op, row op (eq_of_beq hop), hm op⟩

/-- Each of the 34 rows, in the order of R54. -/
theorem rowDecodes_of_mem_opcodeTable : ∀ r ∈ opcodeTable, RowDecodes r := by
  simp only [opcodeTable, opcodeRowsLow, opcodeRowsAlu, opcodeRowsHigh, opcodeRowsF, List.cons_append, List.nil_append,
    List.forall_mem_cons]
  exact ⟨.of_decodesRow decodesRow_cls fun _ => rfl,
    .of_decodesRow decodesRow_ret fun _ => rfl,
    .of_decodesRow decodesRow_jp fun _ => rfl,
    .of_decodesRow decodesRow_call fun _ => rfl,
    .of_decodesRow decodesRow_seImm fun _ => rfl,
    .of_decodesRow decodesRow_sneImm fun _ => rfl,
    .of_decodesRow decodesRow_seReg fun _ => rfl,
    .of_decodesRow decodesRow_ldImm fun _ => rfl,
    .of_decodesRow decodesRow_addImm fun _ => rfl,
    .of_decodesRow decodesRow_ldReg fun _ => rfl,
    .of_decodesRow decodesRow_or fun _ => rfl,
    .of_decodesRow decodesRow_and fun _ => rfl,
    .of_decodesRow decodesRow_xor fun _ => rfl,
    .of_decodesRow decodesRow_addReg fun _ => rfl,
    .of_decodesRow decodesRow_sub fun _ => rfl,
    .of_decodesRow decodesRow_shr fun _ => rfl,
    .of_decodesRow decodesRow_subn fun _ => rfl,
    .of_decodesRow decodesRow_shl fun _ => rfl,
    .of_decodesRow decodesRow_sneReg fun _ => rfl,
    .of_decodesRow decodesRow_ldI fun _ => rfl,
    .of_decodesRow decodesRow_jpV0 fun _ => rfl,
    .of_decodesRow decodesRow_rnd fun _ => rfl,
    .of_decodesRow decodesRow_drw fun _ => rfl,
    .of_decodesRow decodesRow_skp fun _ => rfl,
    .of_decodesRow decodesRow_sknp fun _ => rfl,
    .of_decodesRow decodesRow_ldVxDt fun _ => rfl,
    .of_decodesRow decodesRow_ldVxK fun _ => rfl,
    .of_decodesRow decodesRow_ldDtVx fun _ => rfl,
    .of_decodesRow decodesRow_ldStVx fun _ => rfl,
    .of_decodesRow decodesRow_addIVx fun _ => rfl,
    .of_decodesRow decodesRow_ldFVx fun _ => rfl,
    .of_decodesRow decodesRow_ldBVx fun _ => rfl,
    .of_decodesRow decodesRow_ldMemVx fun _ => rfl,
    .of_decodesRow decodesRow_ldVxMem fun _ => rfl, by simp⟩

/-- The one rejection of a whole word (R55). -/
theorem eq_unassigned_of_decodeWord {op : Word} {e : DecodeError} (h : decodeWord op = .error e) :
    e = .unassigned op := by
  unfold decodeWord decodeFamily0 decodeFamily8 decodeFamilyE decodeFamilyF at h
  repeat' split at h
  all_goals cases h
  all_goals rfl

/-- Settles O3: a decoded instruction is the one whose encoding the word is, which matches its row; and each row decodes. -/
theorem decodeSelectsTheMatchingRow : Obligations.DecodeSelectsTheMatchingRow := by
  refine fun op => ⟨fun i hi => ?matched, fun r hr hop => ?decoded, fun e he => ?rejected⟩
  case matched =>
    obtain ⟨hwf, rfl⟩ := isWordOf_of_decodeWord hi
    exact encodesInRow i hwf
  case decoded => exact rowDecodes_of_mem_opcodeTable r hr op hop
  case rejected => exact eq_unassigned_of_decodeWord he

/-- A row of R54 is named by its mnemonic. -/
theorem opcodeTable_mnemonic_nodup : (opcodeTable.map OpcodeRow.mnemonic).Nodup := by decide

/-- Settles O4: a word that matches two rows decodes to an instruction of both mnemonics, and no two rows share one. -/
theorem opcodeRowsAreDisjoint : Obligations.OpcodeRowsAreDisjoint := by
  intro op r hr q hq hrop hqop
  obtain ⟨i, hi, hir⟩ := rowDecodes_of_mem_opcodeTable r hr op hrop
  obtain ⟨j, hj, hjq⟩ := rowDecodes_of_mem_opcodeTable q hq op hqop
  have hij : i = j := Except.ok.inj (hi.symm.trans hj)
  exact List.inj_on_of_nodup_map opcodeTable_mnemonic_nodup hr hq (by rw [← hir, hij, hjq])

/-! ### The unassigned words -/

theorem decodeFamily0_eq_error_iff (op : Word) :
    decodeFamily0 op = .error (.unassigned op) ↔ fieldNNN op ≠ 0x0E0 ∧ fieldNNN op ≠ 0x0EE := by
  unfold decodeFamily0
  split <;> simp_all

theorem decodeFamily8_eq_error_iff (op : Word) :
    decodeFamily8 op = .error (.unassigned op) ↔ fieldN op ∈ [0x8, 0x9, 0xA, 0xB, 0xC, 0xD, 0xF] := by
  have := fieldN_lt op
  unfold decodeFamily8
  split <;> simp_all
  omega

theorem decodeFamilyE_eq_error_iff (op : Word) :
    decodeFamilyE op = .error (.unassigned op) ↔ fieldNN op ∉ [0x9E, 0xA1] := by
  unfold decodeFamilyE
  split <;> simp_all

theorem decodeFamilyF_eq_error_iff (op : Word) :
    decodeFamilyF op = .error (.unassigned op) ↔
      fieldNN op ∉ [0x07, 0x0A, 0x15, 0x18, 0x1E, 0x29, 0x33, 0x55, 0x65] := by
  unfold decodeFamilyF
  split <;> simp_all

/-- Settles O5, family by family: six families hold unassigned words, and the sub-field says which. -/
theorem unassignedWordsAreThoseOfTheTable : Obligations.UnassignedWordsAreThoseOfTheTable := by
  intro op
  have hlt := fieldF_lt op
  unfold decodeWord
  split
  case h_1 hF => simp only [decodeFamily0_eq_error_iff, hF]; simp
  case h_6 hF => simp [hF]
  case h_9 hF => simp only [decodeFamily8_eq_error_iff, hF]; simp
  case h_10 hF => simp [hF]
  case h_15 hF => simp only [decodeFamilyE_eq_error_iff, hF]; simp
  case h_16 =>
    have hF : fieldF op = 0xF := by simp only [imp_false] at *; omega
    simp only [decodeFamilyF_eq_error_iff, hF]; simp
  all_goals simp [*]

/-- Settles O6, by running the decoder on the ten words. -/
theorem writtenOutWordsDecode : Obligations.WrittenOutWordsDecode := by
  unfold Obligations.WrittenOutWordsDecode
  decide

end Sys2Proof
end

section
/-! PROOFS. Every instruction and every cycle: each completes (30_encoding.md section 5) and keeps the invariant of
10_state.md section 9; and each of the host's operations keeps it. -/

namespace Sys2Proof.Machine

/-! ### The branches of `RET`, `CALL`, the key wait and `ADD I` -/

theorem exec_ret_underflow {s : State} (h : s.sp = 0) : exec .ret s = .next (s.raise .stackUnderflow) := if_pos h

theorem exec_ret_pop {s : State} (h : s.sp ≠ 0) : exec .ret s = .next (s.pop.setPc s.top) := if_neg h

theorem exec_call_overflow {s : State} (nnn : Nat) (h : s.sp = s.config.stackCapacity) :
    exec (.call nnn) s = .next (s.raise .stackOverflow) := if_pos h

theorem exec_call_push {s : State} (nnn : Nat) (h : s.sp ≠ s.config.stackCapacity) :
    exec (.call nnn) s = .next ((s.push s.npc).setPc nnn) := if_neg h

theorem exec_ldVxK_wait {s : State} (x : Reg) (h : s.lowestKey = none) : exec (.ldVxK x) s = .next s := by
  simp only [exec, execLdVxK, h]

theorem exec_ldVxK_key {s : State} (x : Reg) {k : KeyIndex} (h : s.lowestKey = some k) :
    exec (.ldVxK x) s = .next (s.advance.setV x (BitVec.ofNat 8 k.val)) := by
  simp only [exec, execLdVxK, h]

theorem exec_addIVx_overflow {s : State} {x : Reg} (h : indexOverflows s.i (s.getV x) = true) :
    exec (.addIVx x) s = .next ((s.advance.setI (s.i.toNat + (s.getV x).toNat)).setV vf 1) := by
  simp only [exec, execAddIVx, h, if_true]

theorem exec_addIVx_fits {s : State} {x : Reg} (h : indexOverflows s.i (s.getV x) = false) :
    exec (.addIVx x) s = .next (s.advance.setI (s.i.toNat + (s.getV x).toNat)) := by
  simp only [exec, execAddIVx, h, Bool.false_eq_true, if_false]

theorem exec_ret_cases {s t : State} (he : exec .ret s = .next t) :
    (s.sp = 0 ∧ t = s.raise .stackUnderflow) ∨ (s.sp ≠ 0 ∧ t = s.pop.setPc s.top) := by
  by_cases h : s.sp = 0
  · cases (exec_ret_underflow h).symm.trans he; exact .inl ⟨h, rfl⟩
  · cases (exec_ret_pop h).symm.trans he; exact .inr ⟨h, rfl⟩

theorem exec_call_cases {nnn : Nat} {s t : State} (he : exec (.call nnn) s = .next t) :
    (s.sp = s.config.stackCapacity ∧ t = s.raise .stackOverflow) ∨
    (s.sp ≠ s.config.stackCapacity ∧ t = (s.push s.npc).setPc nnn) := by
  by_cases h : s.sp = s.config.stackCapacity
  · cases (exec_call_overflow nnn h).symm.trans he; exact .inl ⟨h, rfl⟩
  · cases (exec_call_push nnn h).symm.trans he; exact .inr ⟨h, rfl⟩

theorem exec_ldVxK_cases {x : Reg} {s t : State} (he : exec (.ldVxK x) s = .next t) :
    (s.lowestKey = none ∧ t = s) ∨
    ∃ k, s.lowestKey = some k ∧ t = s.advance.setV x (BitVec.ofNat 8 k.val) := by
  cases h : s.lowestKey with
  | none => cases (exec_ldVxK_wait x h).symm.trans he; exact .inl ⟨rfl, rfl⟩
  | some k => cases (exec_ldVxK_key x h).symm.trans he; exact .inr ⟨k, rfl, rfl⟩

theorem exec_addIVx_cases {x : Reg} {s t : State} (he : exec (.addIVx x) s = .next t) :
    (indexOverflows s.i (s.getV x) = true ∧ t = (s.advance.setI (s.i.toNat + (s.getV x).toNat)).setV vf 1) ∨
    (indexOverflows s.i (s.getV x) = false ∧ t = s.advance.setI (s.i.toNat + (s.getV x).toNat)) := by
  cases h : indexOverflows s.i (s.getV x) with
  | true => cases (exec_addIVx_overflow h).symm.trans he; exact .inl ⟨rfl, rfl⟩
  | false => cases (exec_addIVx_fits h).symm.trans he; exact .inr ⟨rfl, rfl⟩

/-- No instruction ends in a host-level fault or a refusal (R130, R135). -/
theorem exec_completes (i : Instr) (s : State) : ∃ t, exec i s = .next t := by
  cases i
  case ret =>
    by_cases h : s.sp = 0
    · exact ⟨_, exec_ret_underflow h⟩
    · exact ⟨_, exec_ret_pop h⟩
  case call nnn =>
    by_cases h : s.sp = s.config.stackCapacity
    · exact ⟨_, exec_call_overflow nnn h⟩
    · exact ⟨_, exec_call_push nnn h⟩
  case ldVxK x =>
    cases h : s.lowestKey with
    | none => exact ⟨_, exec_ldVxK_wait x h⟩
    | some k => exact ⟨_, exec_ldVxK_key x h⟩
  all_goals exact ⟨_, rfl⟩

/-! ### The cycle -/

/-- A latched fault halts the core (R56). -/
theorem executeCycle_of_fault {s : State} (h : s.fault ≠ .clear) : executeCycle s = .next s := if_neg h

/-- A cycle runs the instruction at `PC` (R56). -/
theorem executeCycle_of_instr {s : State} {i : Instr} (hc : s.fault = .clear) (hd : decodeWord s.fetchWord = .ok i) :
    executeCycle s = exec i s := by
  simp only [executeCycle, hc, hd, if_true]

/-- A cycle skips an unassigned word (R55). -/
theorem executeCycle_of_unassigned {s : State} {e : DecodeError} (hc : s.fault = .clear)
    (hd : decodeWord s.fetchWord = .error e) : executeCycle s = .next s.advance := by
  simp only [executeCycle, hc, hd, if_true]

/-- The three things a cycle can do: nothing with a fault latched, one instruction, or the advance. -/
theorem executeCycle_cases {s t : State} (h : executeCycle s = .next t) :
    (s.fault ≠ .clear ∧ t = s) ∨
    (s.fault = .clear ∧ ∃ i, decodeWord s.fetchWord = .ok i ∧ exec i s = .next t) ∨
    (s.fault = .clear ∧ decodeWord s.fetchWord = .error (.unassigned s.fetchWord) ∧ t = s.advance) := by
  by_cases hc : s.fault = .clear
  · cases hd : decodeWord s.fetchWord with
    | ok i => exact .inr (.inl ⟨hc, i, rfl, executeCycle_of_instr hc hd ▸ h⟩)
    | error e =>
      obtain rfl := eq_unassigned_of_decodeWord hd
      rw [executeCycle_of_unassigned hc hd] at h
      cases h
      exact .inr (.inr ⟨hc, rfl, rfl⟩)
  · rw [executeCycle_of_fault hc] at h
    cases h
    exact .inl ⟨hc, rfl⟩

/-- Every cycle answers a next state (R130, R135). -/
theorem executeCycle_completes (s : State) : ∃ t, executeCycle s = .next t := by
  by_cases hc : s.fault = .clear
  · cases hd : decodeWord s.fetchWord with
    | ok i => rw [executeCycle_of_instr hc hd]; exact exec_completes i s
    | error e => exact ⟨_, executeCycle_of_unassigned hc hd⟩
  · exact ⟨_, executeCycle_of_fault hc⟩

/-! ### The invariant -/

theorem State.Inv.clearDisplay {s : State} (h : s.Inv) : s.clearDisplay.Inv := h.of_fields rfl rfl rfl rfl rfl

theorem State.Inv.setResultFlag {s : State} (h : s.Inv) (x : Reg) (b f : Byte) : (s.setResultFlag x b f).Inv :=
  (h.setV x b).setV vf f

theorem State.Inv.setDt {s : State} (h : s.Inv) (b : Byte) : (s.setDt b).Inv := h.of_fields rfl rfl rfl rfl rfl

theorem State.Inv.setSt {s : State} (h : s.Inv) (b : Byte) : (s.setSt b).Inv := h.of_fields rfl rfl rfl rfl rfl

theorem State.Inv.setKey {s : State} (h : s.Inv) (k : KeyIndex) (b : Bool) : (s.setKey k b).Inv :=
  h.of_fields rfl rfl rfl rfl rfl

theorem State.Inv.tickTimers {s : State} (h : s.Inv) : s.tickTimers.Inv := h.of_fields rfl rfl rfl rfl rfl

/-- Each instruction is a composition of updates that keep the invariant. -/
theorem State.Inv.exec {i : Instr} {s t : State} (h : s.Inv) (he : exec i s = .next t) : t.Inv := by
  cases i
  case ret =>
    obtain ⟨hsp, rfl⟩ | ⟨hsp, rfl⟩ := exec_ret_cases he
    · exact h.raise _
    · exact h.pop.setPc _
  case call nnn =>
    obtain ⟨hsp, rfl⟩ | ⟨hsp, rfl⟩ := exec_call_cases he
    · exact h.raise _
    · exact (h.push hsp).setPc _
  case ldVxK x =>
    obtain ⟨hk, rfl⟩ | ⟨k, hk, rfl⟩ := exec_ldVxK_cases he
    · exact h
    · exact h.advance.setV _ _
  case addIVx x =>
    obtain ⟨ho, rfl⟩ | ⟨ho, rfl⟩ := exec_addIVx_cases he
    · exact (h.advance.setI _).setV _ _
    · exact h.advance.setI _
  all_goals cases he
  case cls => exact h.advance.clearDisplay
  case jp | jpV0 => exact h.setPc _
  case seImm | sneImm | seReg | sneReg | skp | sknp => exact h.skipIf _
  case ldImm | addImm | ldReg | or | and | xor | rnd | ldVxDt => exact h.advance.setV _ _
  case addReg | sub | shr | subn | shl => exact h.advance.setResultFlag _ _ _
  case ldI | ldFVx => exact h.advance.setI _
  case drw => exact (h.advance.setV _ _).drawSprite _ _ _
  case ldDtVx => exact h.advance.setDt _
  case ldStVx => exact h.advance.setSt _
  case ldBVx => exact ((h.advance.memWrite _ _).memWrite _ _).memWrite _ _
  case ldMemVx => exact h.advance.storeRegs _
  case ldVxMem => exact h.advance.loadRegs _

theorem State.Inv.executeCycle {s t : State} (h : s.Inv) (he : executeCycle s = .next t) : t.Inv := by
  obtain ⟨-, rfl⟩ | ⟨-, i, -, hi⟩ | ⟨-, -, rfl⟩ := executeCycle_cases he
  · exact h
  · exact h.exec hi
  · exact h.advance

/-- The state after `init` meets the invariant under every configuration (R25). -/
theorem State.inv_init (c : Config) : (State.init c).Inv where
  pc_lt := show 0x200 < 4096 by decide
  i_lt := show 0 < 4096 by decide
  depth_le := Nat.zero_le _
  entries_lt := fun a ha => absurd ha List.not_mem_nil
  mem_wf := ⟨List.Pairwise.nil, fun c hc => absurd hc List.not_mem_nil⟩

theorem State.inv_initialise (s : State) : s.initialise.Inv :=
  (State.inv_init s.config).of_fields rfl rfl rfl rfl rfl

theorem State.Inv.load {s : State} (h : s.Inv) (rom : List Byte) : (s.load rom).Inv := by
  unfold State.load
  split
  next hfit => exact { h with mem_wf := State.placeProgram_wf h.mem_wf hfit }
  next => exact h

end Sys2Proof.Machine

namespace Sys2Proof

open Sys2Proof.Machine

/-- Settles O51: delivery keeps the invariant, and so does the cycle after it. -/
theorem stepKeepsTheInvariant : Obligations.StepKeepsTheInvariant :=
  fun _ _ h he => h.deliver.executeCycle he

/-- Settles O52, one operation of the host after the other. -/
theorem hostOperationsKeepTheInvariant : Obligations.HostOperationsKeepTheInvariant := by
  intro op s t h he
  cases op
  case executeCycle b =>
    have hb : ({ s with rnd := b } : State).Inv := h.of_fields rfl rfl rfl rfl rfl
    exact hb.executeCycle he
  all_goals cases he
  case init => exact s.inv_initialise
  case load rom => exact h.load rom
  case tickTimers => exact h.tickTimers
  case setKey k pressed => exact h.setKey k pressed
  case readDisplay | readSound => exact h

/-- Settles O50: the reset state is the state after `init` of the default machine. -/
theorem resetMeetsTheInvariant : Obligations.ResetMeetsTheInvariant := State.inv_init Config.default

/-- Settles O10: a step is a cycle on the state with its inputs delivered, and every cycle completes. -/
theorem everyStepAnswersANextState : Obligations.EveryStepAnswersANextState :=
  fun s => executeCycle_completes s.deliver

end Sys2Proof
end

section
/-! PROOFS. Which instruction, cycle or host operation may change what (10_state.md, 20_memory.md section 4, R112). -/

namespace Sys2Proof

open Sys2Proof.Machine Sys2Proof.Claims

/-! ### The program counter and the general registers -/

/-- Settles O38: an instruction that does not assign `PC` starts from the advance, and its own writes leave `PC`. -/
theorem pcAdvancesUnlessTheRuleAssignsIt : Obligations.PcAdvancesUnlessTheRuleAssignsIt := by
  intro i s t h he
  cases i
  case ret | jp | call | seImm | sneImm | seReg | sneReg | jpV0 | skp | sknp | ldVxK => cases h
  case addIVx x => obtain ⟨-, rfl⟩ | ⟨-, rfl⟩ := exec_addIVx_cases he <;> exact s.toNat_advance_pc
  all_goals cases he
  case drw => rw [(drawSprite_toggled _ _ _ _).frame]; exact s.toNat_advance_pc
  case ldMemVx => rw [foldl_storeReg_frame]; exact s.toNat_advance_pc
  case ldVxMem => rw [foldl_loadReg_frame]; exact s.toNat_advance_pc
  all_goals exact s.toNat_advance_pc

theorem Machine.State.getV_setV_of_ne (s : State) {x r : Reg} (b : Byte) (h : r ≠ x) :
    (s.setV x b).getV r = s.getV r := by
  rw [State.getV_setV, if_neg h]

theorem Machine.State.getV_setResultFlag_of_ne (s : State) {x r : Reg} (b f : Byte) (h : ¬ (r = x ∨ r = vf)) :
    (s.setResultFlag x b f).getV r = s.getV r := by
  obtain ⟨hx, hf⟩ := not_or.mp h
  rw [State.getV_setResultFlag, if_neg hf, if_neg hx]

@[simp] theorem Machine.State.skipIf_getV (s : State) (c : Bool) (r : Reg) : (s.skipIf c).getV r = s.getV r := by
  rw [State.skipIf_eq, State.setPc_getV]

/-- Settles O39: after the advance, an instruction writes no register but those listed for it. -/
theorem registersChangeOnlyAsTheTableLists : Obligations.RegistersChangeOnlyAsTheTableLists := by
  intro i s t r he h
  cases i
  case ret =>
    obtain ⟨-, rfl⟩ | ⟨-, rfl⟩ := exec_ret_cases he <;> rfl
  case call nnn =>
    obtain ⟨-, rfl⟩ | ⟨-, rfl⟩ := exec_call_cases he <;> rfl
  case ldVxK x =>
    obtain ⟨-, rfl⟩ | ⟨k, -, rfl⟩ := exec_ldVxK_cases he
    · rfl
    · exact s.advance.getV_setV_of_ne _ h
  case addIVx x =>
    obtain ⟨-, rfl⟩ | ⟨-, rfl⟩ := exec_addIVx_cases he
    · exact (s.advance.setI _).getV_setV_of_ne _ h
    · rfl
  all_goals cases he
  case seImm | sneImm | seReg | sneReg | skp | sknp => exact s.skipIf_getV _ r
  case ldImm | addImm | ldReg | or | and | xor | rnd | ldVxDt => exact s.advance.getV_setV_of_ne _ h
  case addReg | sub | shr | subn | shl => exact s.advance.getV_setResultFlag_of_ne _ _ h
  case drw =>
    rw [(drawSprite_toggled _ _ _ _).reg r h]
    exact s.advance.getV_setV_of_ne _ h
  case ldMemVx => rw [foldl_storeReg_frame]; rfl
  case ldVxMem x =>
    rw [foldl_loadReg_getV, if_neg (mt (mem_regsUpTo x r).mp h), State.advance_getV]
  all_goals rfl

/-! ### Memory, display, stack, latch, index, timers, keys, configuration -/

theorem Claims.keepsMemory_of_mem_eq {s t : State} (hm : t.mem = s.mem) (hc : t.config = s.config) :
    KeepsMemory s t := fun a => by simp only [State.memRead, hm, hc]

/-- Settles O40: the frame of every instruction keeps memory, and the configuration with the font. -/
theorem onlyTheStoresWriteMemory : Obligations.OnlyTheStoresWriteMemory := by
  intro i s t he hbcd hdump
  have frame := exec_frame he
  exact keepsMemory_of_mem_eq (frame.mem hbcd hdump) frame.config

theorem Machine.State.getPixel_of_fb_eq {s t : State} (h : t.fb = s.fb) (px : Fin 64) (py : Fin 32) :
    t.getPixel px py = s.getPixel px py := by simp only [State.getPixel, h]

/-- `load` changes memory alone, whether or not the program fits (R161). -/
theorem Machine.State.load_frame (s : State) (rom : List Byte) : s.load rom = { s with mem := (s.load rom).mem } := by
  unfold State.load
  split <;> rfl

/-- A cycle that does not run `CLS` or `DRW` keeps the display (R112). -/
theorem Machine.executeCycle_fb {s t : State} (he : executeCycle s = .next t)
    (h : ¬ (s.fault = .clear ∧
      (decodeWord s.fetchWord = .ok .cls ∨ ∃ x y n, decodeWord s.fetchWord = .ok (.drw x y n)))) : t.fb = s.fb := by
  obtain ⟨-, rfl⟩ | ⟨hc, i, hd, hi⟩ | ⟨-, -, rfl⟩ := executeCycle_cases he
  · rfl
  · refine (exec_frame hi).fb ?_ ?_
    · rintro rfl
      exact h ⟨hc, .inl hd⟩
    · rintro x y n rfl
      exact h ⟨hc, .inr ⟨x, y, n, hd⟩⟩
  · rfl

/-- Settles O41: the display is kept by the frame of every other instruction, so by every other cycle, and by every other
operation of the host. -/
theorem displayChangesOnlyByClsDrwAndInit : Obligations.DisplayChangesOnlyByClsDrwAndInit := by
  refine ⟨fun i s t he hcls hdrw => ?instrs, fun s t he h => ?cycles, fun b s => rfl, fun op s t he hinit hcycle => ?ops⟩
  case instrs => exact State.getPixel_of_fb_eq ((exec_frame he).fb hcls hdrw)
  case cycles => exact State.getPixel_of_fb_eq (executeCycle_fb he h)
  case ops =>
    refine State.getPixel_of_fb_eq ?_
    cases op
    case init => exact absurd rfl hinit
    case executeCycle b => exact absurd rfl (hcycle b)
    all_goals cases he
    case load rom => rw [State.load_frame]
    all_goals rfl

/-- Settles O42: the frame of every other instruction keeps stack and latch; a pop drops the top alone, a push adds one
entry above it. -/
theorem stackAndLatchChangeOnlyByCallAndRet : Obligations.StackAndLatchChangeOnlyByCallAndRet := by
  refine ⟨fun i s t he hret hcall => ?others, fun i s t k he hs ht => ?entries⟩
  case others => exact ⟨(exec_frame he).stack hret hcall, (exec_frame he).fault hret hcall⟩
  case entries =>
    by_cases hret : i = .ret
    · subst hret
      obtain ⟨hsp, rfl⟩ | ⟨hsp, rfl⟩ := exec_ret_cases he
      · rfl
      · have hk : k < s.stack.length - 1 := by simpa [State.sp] using ht
        simp [hk]
    · by_cases hcall : ∃ nnn, i = .call nnn
      · obtain ⟨nnn, rfl⟩ := hcall
        obtain ⟨hsp, rfl⟩ | ⟨hsp, rfl⟩ := exec_call_cases he
        · rfl
        · exact List.getElem?_append_left hs
      · rw [(exec_frame he).stack hret (not_exists.mp hcall)]

/-- Settles O43, from the frame of every instruction. -/
theorem indexAndTimersChangeOnlyByTheirWriters : Obligations.IndexAndTimersChangeOnlyByTheirWriters :=
  fun _ _ _ he => ⟨(exec_frame he).index, (exec_frame he).dt, (exec_frame he).st⟩

/-- Settles O44, from the frame of every instruction. -/
theorem noInstructionWritesKeysOrConfiguration : Obligations.NoInstructionWritesKeysOrConfiguration := by
  intro i s t he
  have frame := exec_frame he
  exact ⟨fun k => by simp only [State.getKey, frame.keys], frame.config⟩

end Sys2Proof
end

section
/-! PROOFS. What no instruction reads (R17, R91), and a step as the host's operations in order (R4). -/

namespace Sys2Proof.Machine

/-- `s` with other contents in the three fields that the instructions do not read: the random byte, which `CXNN` alone
reads, `ST`, and the inputs of the coming cycles. -/
def State.withUnread (s : State) (b c : Byte) (ins : List CycleInput) : State :=
  { s with rnd := b, st := c, inputs := ins }

theorem togglePixel_withUnread (s : State) (b c : Byte) (ins : List CycleInput) (x y : Nat) :
    (s.withUnread b c ins).togglePixel x y = (s.togglePixel x y).withUnread b c ins := by
  unfold State.togglePixel
  split
  next h =>
    have hold : (s.withUnread b c ins).getPixel ⟨x, h.1⟩ ⟨y, h.2⟩ = s.getPixel ⟨x, h.1⟩ ⟨y, h.2⟩ := rfl
    simp only [hold]
    split <;> rfl
  next => rfl

theorem drawBit_withUnread (s : State) (b c : Byte) (ins : List CycleInput) (row : Byte) (x0 y k : Nat) :
    State.drawBit row x0 y (s.withUnread b c ins) k = (State.drawBit row x0 y s k).withUnread b c ins := by
  unfold State.drawBit
  split
  · exact togglePixel_withUnread s b c ins _ _
  · rfl

/-- A loop whose turns do not read the fields. -/
theorem foldl_withUnread {α : Type} {f : State → α → State} (b c : Byte) (ins : List CycleInput)
    (hf : ∀ s a, f (s.withUnread b c ins) a = (f s a).withUnread b c ins) (l : List α) (s : State) :
    l.foldl f (s.withUnread b c ins) = (l.foldl f s).withUnread b c ins :=
  List.foldl_hom (State.withUnread · b c ins) hf

theorem drawRow_withUnread (s : State) (b c : Byte) (ins : List CycleInput) (x0 y0 r : Nat) :
    State.drawRow x0 y0 (s.withUnread b c ins) r = (State.drawRow x0 y0 s r).withUnread b c ins :=
  foldl_withUnread b c ins (fun s k => drawBit_withUnread s b c ins _ x0 (y0 + r) k) _ s

theorem drawSprite_withUnread (s : State) (b c : Byte) (ins : List CycleInput) (x0 y0 n : Nat) :
    (s.withUnread b c ins).drawSprite x0 y0 n = (s.drawSprite x0 y0 n).withUnread b c ins :=
  foldl_withUnread b c ins (fun s r => drawRow_withUnread s b c ins x0 y0 r) _ s

theorem skipIf_withUnread (s : State) (b c : Byte) (ins : List CycleInput) (cond : Bool) :
    (s.withUnread b c ins).skipIf cond = (s.skipIf cond).withUnread b c ins := by
  simp only [State.skipIf_eq]; rfl

/-- An instruction other than `CXNN` and `FX18` does the same whatever the unread fields hold, and leaves them so. -/
theorem exec_withUnread {i : Instr} {s t : State} (he : exec i s = .next t) (hrnd : ∀ x nn, i ≠ .rnd x nn)
    (hst : ∀ x, i ≠ .ldStVx x) (b c : Byte) (ins : List CycleInput) :
    exec i (s.withUnread b c ins) = .next (t.withUnread b c ins) := by
  cases i
  case rnd x nn => exact absurd rfl (hrnd x nn)
  case ldStVx x => exact absurd rfl (hst x)
  case ret =>
    obtain ⟨hsp, rfl⟩ | ⟨hsp, rfl⟩ := exec_ret_cases he
    · exact exec_ret_underflow hsp
    · exact exec_ret_pop (s := s.withUnread b c ins) hsp
  case call nnn =>
    obtain ⟨hsp, rfl⟩ | ⟨hsp, rfl⟩ := exec_call_cases he
    · exact exec_call_overflow nnn hsp
    · exact exec_call_push (s := s.withUnread b c ins) nnn hsp
  case ldVxK x =>
    obtain ⟨hk, rfl⟩ | ⟨k, hk, rfl⟩ := exec_ldVxK_cases he
    · exact exec_ldVxK_wait x hk
    · exact exec_ldVxK_key (s := s.withUnread b c ins) x hk
  case addIVx x =>
    obtain ⟨ho, rfl⟩ | ⟨ho, rfl⟩ := exec_addIVx_cases he
    · exact exec_addIVx_overflow (s := s.withUnread b c ins) ho
    · exact exec_addIVx_fits (s := s.withUnread b c ins) ho
  all_goals cases he
  case seImm | sneImm | seReg | sneReg | skp | sknp => exact congrArg _ (skipIf_withUnread s b c ins _)
  case drw => exact congrArg _ (drawSprite_withUnread (s.advance.setV vf 0) b c ins _ _ _)
  case ldMemVx x => exact congrArg _ (foldl_withUnread b c ins (fun _ _ => rfl) (regsUpTo x) s.advance)
  case ldVxMem x => exact congrArg _ (foldl_withUnread b c ins (fun _ _ => rfl) (regsUpTo x) s.advance)
  all_goals rfl

/-- An instruction other than `CXNN` does the same whatever the random byte is. -/
theorem exec_with_rnd {i : Instr} {s t : State} (he : exec i s = .next t) (hrnd : ∀ x nn, i ≠ .rnd x nn) (b : Byte) :
    exec i { s with rnd := b } = .next { t with rnd := b } := by
  by_cases h : ∃ x, i = .ldStVx x
  · obtain ⟨x, rfl⟩ := h
    cases he; rfl
  · have hst := not_exists.mp h
    have frame := exec_frame he
    have ht : t.withUnread b s.st s.inputs = { t with rnd := b } := by rw [← frame.st hst, ← frame.inputs]; rfl
    exact ht ▸ exec_withUnread he hrnd hst b s.st s.inputs

/-- An instruction other than `FX18` does the same whatever `ST` holds. -/
theorem exec_with_st {i : Instr} {s t : State} (he : exec i s = .next t) (hst : ∀ x, i ≠ .ldStVx x) (c : Byte) :
    exec i { s with st := c } = .next { t with st := c } := by
  by_cases h : ∃ x nn, i = .rnd x nn
  · obtain ⟨x, nn, rfl⟩ := h
    cases he; rfl
  · have hrnd : ∀ x nn, i ≠ .rnd x nn := fun x nn hi => h ⟨x, nn, hi⟩
    have frame := exec_frame he
    have ht : t.withUnread s.rnd c s.inputs = { t with st := c } := by rw [← frame.rnd, ← frame.inputs]; rfl
    exact ht ▸ exec_withUnread he hrnd hst s.rnd c s.inputs

/-- No instruction reads the inputs of the coming cycles (R4, log 4). -/
theorem exec_with_inputs {i : Instr} {s t : State} (he : exec i s = .next t) (ins : List CycleInput) :
    exec i { s with inputs := ins } = .next { t with inputs := ins } := by
  by_cases h : (∃ x nn, i = .rnd x nn) ∨ ∃ x, i = .ldStVx x
  · obtain ⟨x, nn, rfl⟩ | ⟨x, rfl⟩ := h <;> (cases he; rfl)
  · obtain ⟨h1, hst⟩ := not_or.mp h
    have hrnd : ∀ x nn, i ≠ .rnd x nn := fun x nn hi => h1 ⟨x, nn, hi⟩
    have hst := not_exists.mp hst
    have frame := exec_frame he
    have ht : t.withUnread s.rnd s.st ins = { t with inputs := ins } := by rw [← frame.rnd, ← frame.st hst]; rfl
    exact ht ▸ exec_withUnread he hrnd hst s.rnd s.st ins

/-- No cycle reads the inputs of the coming cycles (R4, log 4). -/
theorem executeCycle_with_inputs {s t : State} (he : executeCycle s = .next t) (ins : List CycleInput) :
    executeCycle { s with inputs := ins } = .next { t with inputs := ins } := by
  obtain ⟨hf, rfl⟩ | ⟨hc, i, hd, hi⟩ | ⟨hc, hd, rfl⟩ := executeCycle_cases he
  · exact executeCycle_of_fault (s := { t with inputs := ins }) hf
  · exact (executeCycle_of_instr (s := { s with inputs := ins }) hc hd).trans (exec_with_inputs hi ins)
  · exact executeCycle_of_unassigned (s := { s with inputs := ins }) hc hd

/-- The host's operations for the events of a run's schedule, in order, are those events (R2, R4). -/
theorem runOps_events (es : List HostEvent) (ops : List HostOp) (s : State) :
    Claims.runOps (es.map Claims.eventOp ++ ops) s = Claims.runOps ops (es.foldl State.hostEvent s) := by
  induction es generalizing s with
  | nil => rfl
  | cons e es ih => cases e <;> exact ih _

end Sys2Proof.Machine

namespace Sys2Proof

open Sys2Proof.Machine Sys2Proof.Claims

/-- Settles O45: `CXNN` aside, the random byte is among the fields that no instruction reads. -/
theorem onlyRndReadsTheRandomByte : Obligations.OnlyRndReadsTheRandomByte :=
  fun _ _ _ b hrnd he => exec_with_rnd he hrnd b

/-- Settles O46: `FX18` overwrites `ST`, and the others leave it as it was. -/
theorem noInstructionReadsTheSoundTimer : Obligations.NoInstructionReadsTheSoundTimer :=
  ⟨fun _ _ _ c hst he => exec_with_st he hst c, fun _ _ _ => rfl⟩

/-- Settles O58: the events in order are the delivery, and the cycle does not see which inputs are still listed. -/
theorem stepIsTheHostsOperationsInOrder : Obligations.StepIsTheHostsOperationsInOrder := by
  intro s c rest hs
  obtain ⟨t, ht⟩ := executeCycle_completes { c.events.foldl State.hostEvent s with rnd := c.rnd }
  refine ⟨t, ?_, ?_⟩
  · simp only [runOps_events, runOps, hostOp, ht]
  · rw [step, deliver_cons hs]
    exact executeCycle_with_inputs ht rest

end Sys2Proof
end

section
/-! PROOFS. Fetch and the cycle (20_memory.md section 3, 30_encoding.md sections 4 and 5), faults and status
(60_exceptions.md section 1). -/

namespace Sys2Proof.Machine

open Sys2Proof.Claims

/-! ### The fetch -/

theorem toNat_wordOfBytes (hi lo : Byte) : (wordOfBytes hi lo).toNat = hi.toNat * 256 + lo.toNat := by
  simp only [wordOfBytes, BitVec.toNat_ofNat]; omega

theorem State.memRead_mod (s : State) (a : Nat) : s.memRead (a % 4096) = s.memRead a := s.memRead_wrapAddress a

theorem State.toNat_fetchWord (s : State) :
    s.fetchWord.toNat = (s.memRead s.pc.toNat).toNat * 256 + (s.memRead (s.pc.toNat + 1)).toNat :=
  toNat_wordOfBytes _ _

theorem decodeBytes_fetched_iff (s : State) (i : Instr) :
    decodeBytes [s.memRead s.pc.toNat, s.memRead (s.pc.toNat + 1)] = .ok (i, []) ↔
      decodeWord s.fetchWord = .ok i := by
  simp only [decodeBytes, State.fetchWord]
  split <;> simp [*]

/-- The word placed at `PC` is the word fetched there, also across the wrap (R35, R40; D2). -/
theorem State.fetchWord_withFetchWord {s : State} (h : Memory.wf s.config.font s.mem) (nbits w : Nat) :
    (s.withFetchWord nbits w).fetchWord = BitVec.ofNat 16 w := by
  have hw : Memory.wf s.config.font (s.memWrite s.pc.toNat (highByte (BitVec.ofNat 16 w))).mem := State.memWrite_wf h _ _
  have hne : wrapAddress s.pc.toNat ≠ wrapAddress (s.pc.toNat + 1) := by simp only [wrapAddress]; omega
  have hi : (s.withFetchWord nbits w).memRead s.pc.toNat = highByte (BitVec.ofNat 16 w) :=
    (State.memRead_memWrite hw _ _ _).trans (by rw [if_neg hne, State.memRead_memWrite h, if_pos rfl])
  have lo : (s.withFetchWord nbits w).memRead (s.pc.toNat + 1) = lowByte (BitVec.ofNat 16 w) :=
    (State.memRead_memWrite hw _ _ _).trans (if_pos rfl)
  have hpc : (s.withFetchWord nbits w).pc = s.pc := rfl
  rw [State.fetchWord, hpc, hi, lo, wordOfBytes_highByte_lowByte]

/-- The advance changes `PC` alone, by 2 modulo 4096 (R56, D31). -/
theorem State.advance_eq (s : State) : s.advance = { s with pc := BitVec.ofNat 16 ((s.pc.toNat + 2) % 4096) } :=
  s.setPc_of_lt s.npc_lt

/-- A step runs the instruction at `PC` on the state with the inputs delivered (R56). -/
theorem step_of_instr {s : State} {i : Instr} (hc : s.fault = .clear) (hd : decodeWord s.fetchWord = .ok i) :
    step s = exec i s.deliver :=
  executeCycle_of_instr ((deliver_fault s).trans hc) ((deliver_fetchWord s).symm ▸ hd)

/-! ### Status -/

theorem cycleStatus_of_fault {s : State} (h : s.fault ≠ .clear) : s.cycleStatus = .faulted s.fault := if_neg h

theorem cycleStatus_of_instr {s : State} {i : Instr} (hc : s.fault = .clear) (hd : decodeWord s.fetchWord = .ok i) :
    s.cycleStatus = instrStatus i s := by
  simp only [State.cycleStatus, hc, hd, if_true]

theorem cycleStatus_of_unassigned {s : State} {e : DecodeError} (hc : s.fault = .clear)
    (hd : decodeWord s.fetchWord = .error e) :
    s.cycleStatus = if s.config.unknownOpcodePolicy = .diagnose then .unknown s.fetchWord else .retired := by
  simp only [State.cycleStatus, hc, hd, if_true]
  cases s.config.unknownOpcodePolicy <;> rfl

/-- An instruction changes the latch only by the two stack faults, each of which changes nothing else (R131 to R133). -/
theorem exec_fault_cases {i : Instr} {s t : State} (he : exec i s = .next t) :
    t.fault = s.fault ∨ (i = .ret ∧ s.sp = 0 ∧ t = s.raise .stackUnderflow) ∨
      ∃ nnn, i = .call nnn ∧ s.sp = s.config.stackCapacity ∧ t = s.raise .stackOverflow := by
  by_cases hret : i = .ret
  · subst hret
    obtain ⟨hsp, rfl⟩ | ⟨hsp, rfl⟩ := exec_ret_cases he
    · exact .inr (.inl ⟨rfl, hsp, rfl⟩)
    · exact .inl rfl
  · by_cases hcall : ∃ nnn, i = .call nnn
    · obtain ⟨nnn, rfl⟩ := hcall
      obtain ⟨hsp, rfl⟩ | ⟨hsp, rfl⟩ := exec_call_cases he
      · exact .inr (.inr ⟨nnn, rfl, hsp, rfl⟩)
      · exact .inl rfl
    · exact .inl ((exec_frame he).fault hret (not_exists.mp hcall))

/-- An instruction reports the fault that it latches (R57, R133). -/
theorem instrStatus_eq_faulted_iff {i : Instr} {s t : State} (hc : s.fault = .clear) (he : exec i s = .next t)
    (f : FaultLatch) : instrStatus i s = .faulted f ↔ f ≠ .clear ∧ t.fault = f := by
  cases i
  case ret =>
    obtain ⟨hsp, rfl⟩ | ⟨hsp, rfl⟩ := exec_ret_cases he
    · simp only [instrStatus, hsp, if_true, State.raise_fault, CycleStatus.faulted.injEq]
      exact ⟨fun h => ⟨h ▸ by decide, h⟩, And.right⟩
    · simp [instrStatus, hsp, hc, eq_comm]
  case call nnn =>
    obtain ⟨hsp, rfl⟩ | ⟨hsp, rfl⟩ := exec_call_cases he
    · simp only [instrStatus, hsp, if_true, State.raise_fault, CycleStatus.faulted.injEq]
      exact ⟨fun h => ⟨h ▸ by decide, h⟩, And.right⟩
    · simp [instrStatus, hsp, hc, eq_comm]
  all_goals
    have hf : t.fault = .clear := hc ▸ (exec_frame he).fault (by simp) (by simp)
    simp [instrStatus, hf, eq_comm]
  case ldVxK => split <;> simp

theorem instrStatus_eq_waiting_iff (i : Instr) (s : State) :
    instrStatus i s = .waiting ↔ s.lowestKey = none ∧ ∃ x, i = .ldVxK x := by
  cases i
  case ldVxK => simp [instrStatus]
  case ret | call => simp only [instrStatus]; split <;> simp
  all_goals simp [instrStatus]

theorem instrStatus_ne_unknown (i : Instr) (s : State) (op : Word) : instrStatus i s ≠ .unknown op := by
  cases i
  case ret | call | ldVxK => simp only [instrStatus]; split <;> simp
  all_goals simp [instrStatus]

end Sys2Proof.Machine
end

section
/-! PROOFS. The statements about fetch, cycle, faults and status. -/

namespace Sys2Proof

open Sys2Proof.Machine Sys2Proof.Claims

/-- Settles O7: the word is its two bytes, the second address wrapping, and the fields are theirs. -/
theorem fetchIsBigEndian : Obligations.FetchIsBigEndian := by
  intro s
  have hw := s.toNat_fetchWord
  have hhi := (s.memRead s.pc.toNat).isLt
  have hlo := (s.memRead (s.pc.toNat + 1)).isLt
  simp only [State.memRead_mod, fieldF, fieldX, fieldY, fieldN, fieldNN]
  omega

/-- Settles O8: the bytes at `PC` are the fetched word, and delivery is the frame of the host's events. -/
theorem stepRunsTheDecodedInstruction : Obligations.StepRunsTheDecodedInstruction := by
  refine ⟨fun s i hc hd => ?runs, deliver_frame, fun s hs => ?noInput⟩
  case runs => exact step_of_instr hc ((decodeBytes_fetched_iff s i).mp hd)
  case noInput => rw [deliver_nil hs]

/-- Settles O9: the cycle advances the delivered state, whose `PC` and word are those of `s`. -/
theorem unassignedWordOnlyAdvancesPc : Obligations.UnassignedWordOnlyAdvancesPc := by
  intro s e hc hd
  refine ⟨?step, fun hp => ?diagnose, fun hp => ?silent⟩
  case step =>
    rw [step, executeCycle_of_unassigned ((deliver_fault s).trans hc) ((deliver_fetchWord s).symm ▸ hd),
      State.advance_eq, deliver_pc]
  case diagnose => rw [cycleStatus_of_unassigned hc hd, if_pos hp]
  case silent => rw [cycleStatus_of_unassigned hc hd, hp]; rfl

/-- Settles O11: the word placed is the word fetched, on a core whose latch is clear. -/
theorem storedWordIsRunByTheNextStep : Obligations.StoredWordIsRunByTheNextStep := by
  intro s nbits w i h hi
  have hd : decodeWord (BitVec.ofNat 16 w) = .ok i := by
    rw [decodeTableWord_eq] at hi
    cases hd : decodeWord (BitVec.ofNat 16 w) <;> simp_all [Except.toOption]
  exact step_of_instr rfl (State.fetchWord_withFetchWord h.mem_wf nbits w ▸ hd)

/-- Settles O47: a halted cycle is no change, and of the host's operations only `init` writes the latch. -/
theorem latchedFaultHaltsUntilInit : Obligations.LatchedFaultHaltsUntilInit := by
  intro s hf
  refine ⟨?step, cycleStatus_of_fault hf, fun op t hop he => ?host, rfl⟩
  case step => exact executeCycle_of_fault (by rwa [deliver_fault])
  case host =>
    cases op
    case init => exact absurd rfl hop
    case executeCycle b => cases (executeCycle_of_fault (s := { s with rnd := b }) hf).symm.trans he; rfl
    all_goals cases he
    case load rom => rw [State.load_frame]
    all_goals rfl

/-- Settles O48: a cycle that latches a fault ran an instruction, and only the two stack faults change the latch. -/
theorem faultingCycleChangesTheLatchAlone : Obligations.FaultingCycleChangesTheLatchAlone := by
  intro s t hc he hf
  obtain ⟨hs, -⟩ | ⟨-, i, hd, hi⟩ | ⟨-, -, rfl⟩ := executeCycle_cases he
  · exact absurd hc hs
  · obtain h | ⟨rfl, hsp, rfl⟩ | ⟨nnn, rfl, hsp, rfl⟩ := exec_fault_cases hi
    · exact absurd (h.trans hc) hf
    · exact ⟨rfl, .inr ⟨hd, hsp, rfl⟩⟩
    · exact ⟨rfl, .inl ⟨nnn, hd, hsp, rfl⟩⟩
  · exact absurd hc hf

/-- What the status says of a cycle that runs an instruction. -/
theorem status_of_instr {i : Instr} {s t : State} (hc : s.fault = .clear) (hd : decodeWord s.fetchWord = .ok i)
    (he : exec i s = .next t) :
    (∀ f, s.cycleStatus = .faulted f ↔ f ≠ .clear ∧ t.fault = f) ∧ (s.cycleStatus = .waiting ↔ s.KeyWait) ∧
    (s.cycleStatus = .waiting → t = s) ∧ ∀ op, s.cycleStatus ≠ .unknown op := by
  rw [cycleStatus_of_instr hc hd]
  refine ⟨instrStatus_eq_faulted_iff hc he, ?_, fun h => ?_, instrStatus_ne_unknown i s⟩
  · rw [instrStatus_eq_waiting_iff]
    simp only [State.KeyWait, hc, hd, Except.ok.injEq, true_and]
  · obtain ⟨hk, x, rfl⟩ := (instrStatus_eq_waiting_iff i s).mp h
    cases (exec_ldVxK_wait x hk).symm.trans he; rfl

/-- Settles O49, for each of the three things a cycle can do. -/
theorem statusTellsWhatTheCycleDid : Obligations.StatusTellsWhatTheCycleDid := by
  intro s t he
  obtain ⟨hf, rfl⟩ | ⟨hc, i, hd, hi⟩ | ⟨hc, hd, rfl⟩ := executeCycle_cases he
  · rw [cycleStatus_of_fault hf]
    refine ⟨fun f => ?_, ?_, fun h => rfl, fun op => ?_⟩
    · rw [CycleStatus.faulted.injEq]
      exact ⟨fun h => ⟨h ▸ hf, h⟩, And.right⟩
    · simp [State.KeyWait, hf]
    · simp [hf]
  · obtain ⟨faulted, waiting, same, unknown⟩ := status_of_instr hc hd hi
    refine ⟨faulted, waiting, same, fun op => ⟨fun h => absurd h (unknown op), ?_⟩⟩
    rintro ⟨-, -, rfl, hop⟩
    simp [hd] at hop
  · rw [cycleStatus_of_unassigned hc hd]
    refine ⟨fun f => ?_, ?_, ?_, fun op => ?_⟩
    · split <;> simp [hc, eq_comm]
    · split <;> simp [State.KeyWait, hd]
    · split <;> simp
    · split
      next hp =>
        simp only [CycleStatus.unknown.injEq, hc, hp, true_and]
        exact ⟨fun h => ⟨h, h ▸ hd⟩, And.left⟩
      next hp => simp [hp]

end Sys2Proof
end

section
/-! PROOFS. Control flow (40_control_flow.md): return, call, skips and the jump by `V0`. -/

namespace Sys2Proof

open Sys2Proof.Machine Sys2Proof.Claims

/-! ### Call and return -/

/-- A write of `PC` with an address of the memory (R14). -/
theorem Machine.State.setPc_toNat (s : State) {a : Word} (ha : a.toNat < 4096) : s.setPc a.toNat = { s with pc := a } := by
  rw [s.setPc_of_lt ha, BitVec.ofNat_toNat, BitVec.setWidth_eq]

theorem Machine.State.sp_ne_zero_of_stack {s : State} {below : List Word} {a : Word} (hs : s.stack = below ++ [a]) :
    s.sp ≠ 0 := by
  simp [State.sp, hs]

/-- A return pops the newest entry into `PC` (R70). -/
theorem Machine.exec_ret_of_stack {s : State} {below : List Word} {a : Word} (hs : s.stack = below ++ [a])
    (ha : a.toNat < 4096) : exec .ret s = .next { s with stack := below, pc := a } := by
  have htop : s.top = a.toNat := by simp [State.top, hs]
  have hpop : s.pop = { s with stack := below } := by simp [State.pop, hs]
  rw [exec_ret_pop (State.sp_ne_zero_of_stack hs), htop, State.setPc_toNat _ ha, hpop]

/-- Settles O12: the row is the one word `00EE`, and the stack is either empty or has a newest entry. -/
theorem retPopsTheNewestReturnAddress : Obligations.RetPopsTheNewestReturnAddress :=
  ⟨decodesRow_ret, fun _ _ _ hs ha => exec_ret_of_stack hs ha,
    fun _ hs => exec_ret_underflow (List.length_eq_zero_iff.mpr hs)⟩

/-- Settles O14: below the capacity the call pushes and jumps, at it the call raises. -/
theorem callPushesTheAdvancedPc : Obligations.CallPushesTheAdvancedPc := by
  refine ⟨decodesRow_call, fun nnn s hn hs => ?push, fun nnn s hs => exec_call_overflow nnn hs⟩
  case push => rw [exec_call_push nnn hs, State.setPc_of_lt _ hn]; rfl

/-- Settles O18: the entry that the return pops is the address that the call pushed. -/
theorem callThenRetReturnsAfterTheCall : Obligations.CallThenRetReturnsAfterTheCall := by
  intro nnn s t u w hroom hcall hu hret
  cases (exec_call_push nnn (Nat.ne_of_lt hroom)).symm.trans hcall
  have hpushed : (BitVec.ofNat 16 s.npc).toNat = s.npc := s.npc_mod_word
  have hpop := exec_ret_of_stack hu (hpushed.trans_lt s.npc_lt)
  cases hpop.symm.trans hret
  exact ⟨hpushed, rfl⟩

/-! ### Skips -/

/-- An instruction that ends in a skip moves `PC` by 4 where the condition holds and by 2 where it does not (R73). -/
theorem Claims.movesPc_of_skipIf {i : Instr} {s : State} {c : Bool} (h : exec i s = .next (s.skipIf c)) :
    MovesPc i s (if c then 4 else 2) := by
  have hadd : (s.npc + if c then 2 else 0) % 4096 = (s.pc.toNat + if c then 4 else 2) % 4096 := by
    cases c <;> simp only [State.npc, if_true, Bool.false_eq_true, if_false] <;> omega
  rw [MovesPc, h, State.skipIf_eq, State.setPc, hadd]

theorem Claims.movesPc_of_skipIf_eq {α : Type} [DecidableEq α] {i : Instr} {s : State} {a b : α}
    (h : exec i s = .next (s.skipIf (a == b))) : MovesPc i s (if a = b then 4 else 2) := by
  simpa using movesPc_of_skipIf h

theorem Claims.movesPc_of_skipIf_ne {α : Type} [DecidableEq α] {i : Instr} {s : State} {a b : α}
    (h : exec i s = .next (s.skipIf (a != b))) : MovesPc i s (if a = b then 2 else 4) := by
  simpa [bne, apply_ite, ite_not] using movesPc_of_skipIf h

/-- Settles O15: the two skips on the comparison of `VX` with `NN`. -/
theorem immediateSkipsMovePcAlone : Obligations.ImmediateSkipsMovePcAlone :=
  ⟨decodesRow_seImm, decodesRow_sneImm, fun _ _ _ => ⟨movesPc_of_skipIf_eq rfl, movesPc_of_skipIf_ne rfl⟩⟩

/-- Settles O16: the two skips on the comparison of `VX` with `VY`, and the strict masks of their families. -/
theorem registerSkipsMovePcAlone : Obligations.RegisterSkipsMovePcAlone := by
  refine ⟨decodesRow_seReg, decodesRow_sneReg, fun op hF hN => ?strict, fun x y s =>
    ⟨movesPc_of_skipIf_eq rfl, movesPc_of_skipIf_ne rfl⟩⟩
  case strict => obtain hF | hF := hF <;> simp only [decodeWord, hF, hN, if_false]

/-- Settles O17: `BNNN` writes `PC` alone. -/
theorem jpV0JumpsToV0PlusAddress : Obligations.JpV0JumpsToV0PlusAddress :=
  ⟨decodesRow_jpV0, fun _ _ => rfl⟩

end Sys2Proof
end

section
/-! PROOFS. Arithmetic, logic, shifts and random (41_load_alu_random.md). -/

namespace Sys2Proof

open Sys2Proof.Machine Sys2Proof.Claims

/-- Settles O20: each of the three advances and writes `VX`, and no flag. -/
theorem logicWritesVxAlone : Obligations.LogicWritesVxAlone :=
  ⟨decodesRow_or, decodesRow_and, decodesRow_xor, fun _ _ _ =>
    ⟨writesRegs_of_exec_eq_setV rfl, writesRegs_of_exec_eq_setV rfl, writesRegs_of_exec_eq_setV rfl⟩⟩

/-- An instruction that advances and writes a result into `VX` and then a flag into `VF` leaves every other register. -/
theorem Claims.writesRegs_of_exec_eq_setResultFlag {i : Instr} {s : State} {x : Reg} {b f : Byte}
    (h : exec i s = .next (s.advance.setResultFlag x b f)) :
    WritesRegs i s (fun r => if r = vf then f else if r = x then b else s.getV r) :=
  ⟨_, h, fun r => by rw [State.getV_setResultFlag, State.advance_getV], rfl, fun _ => rfl⟩

/-- `8XY4`, with the sum reduced and the carry written out (R86). -/
theorem Machine.exec_addReg (x y : Reg) (s : State) :
    exec (.addReg x y) s = .next (s.advance.setResultFlag x
      (BitVec.ofNat 8 (((s.getV x).toNat + (s.getV y).toNat) % 256))
      (if (s.getV x).toNat + (s.getV y).toNat > 255 then 1 else 0)) := by
  rw [byte_ofNat_mod]
  simp only [exec, execAddReg, carryFlag, flagByte, decide_eq_true_eq]

/-- Settles O21: the advance, the sum into `VX`, then the carry into `VF`. -/
theorem addWritesSumThenCarry : Obligations.AddWritesSumThenCarry :=
  ⟨decodesRow_addReg, fun x y s => writesRegs_of_exec_eq_setResultFlag (exec_addReg x y s)⟩

/-- The difference of two bytes is the difference of their values modulo 256 (R93). -/
theorem byte_sub_eq (a b : Byte) : a - b = BitVec.ofInt 8 ((a.toNat - b.toNat : Int) % 256) := by
  apply BitVec.eq_of_toNat_eq
  rw [BitVec.toNat_sub, BitVec.toNat_ofInt]
  omega

theorem notBorrowFlag_eq (a b : Byte) : notBorrowFlag a b = if a.toNat ≥ b.toNat then 1 else 0 := by
  simp only [notBorrowFlag, flagByte, decide_eq_true_eq]

/-- Settles O22: the two subtractions differ in which operand is the minuend. -/
theorem subtractsWriteDifferenceThenNotBorrow : Obligations.SubtractsWriteDifferenceThenNotBorrow := by
  refine ⟨decodesRow_sub, decodesRow_subn, fun x y s =>
    ⟨writesRegs_of_exec_eq_setResultFlag ?_, writesRegs_of_exec_eq_setResultFlag ?_⟩⟩
  · rw [← byte_sub_eq, ← notBorrowFlag_eq]; rfl
  · rw [← byte_sub_eq, ← notBorrowFlag_eq]; rfl

/-- The operand that `SHIFT_SOURCE` selects (R88, R90). -/
theorem Machine.State.shiftOperand_eq {s : State} {x y : Reg} {b : Byte}
    (h : (s.config.shiftSource = .vx ∧ b = s.getV x) ∨ (s.config.shiftSource = .vy ∧ b = s.getV y)) :
    s.shiftOperand x y = b := by
  obtain ⟨hc, rfl⟩ | ⟨hc, rfl⟩ := h <;> simp only [State.shiftOperand, hc]

/-- Settles O23: both shifts read the selected operand, and write the result and then the bit shifted out. -/
theorem shiftsWriteResultThenBitShiftedOut : Obligations.ShiftsWriteResultThenBitShiftedOut := by
  refine ⟨decodesRow_shr, decodesRow_shl, fun x y s b h => ?_⟩
  obtain rfl := State.shiftOperand_eq h
  refine ⟨writesRegs_of_exec_eq_setResultFlag rfl, writesRegs_of_exec_eq_setResultFlag ?_⟩
  rw [byte_ofNat_mod]; rfl

/-- Settles O24: the byte under the mask goes into `VX`, and delivery supplies the byte. -/
theorem rndWritesTheMaskedRandomByte : Obligations.RndWritesTheMaskedRandomByte := by
  refine ⟨decodesRow_rnd, fun x nn s => writesRegs_of_exec_eq_setV rfl, fun s c rest hs => ?listed, fun s hs => ?free⟩
  case listed => rw [deliver_cons hs]; exact ⟨rfl, rfl⟩
  case free => rw [deliver_nil hs]; exact ⟨rfl, rfl⟩

end Sys2Proof
end

section
/-! PROOFS. Index and memory (42_index_and_memory.md): `ADD I`, the glyph address, the digits, the dump and the load. -/

namespace Sys2Proof

open Sys2Proof.Machine Sys2Proof.Claims

/-! ### The index register -/

theorem Machine.State.toNat_setI_i (s : State) (n : Nat) : (s.setI n).i.toNat = n % 4096 := by simp

/-- Settles O26, with the overflow and without. -/
theorem addIWrapsAndFlagsOverflow : Obligations.AddIWrapsAndFlagsOverflow := by
  refine ⟨decodesRow_addIVx, fun x s => ?_⟩
  cases ho : indexOverflows s.i (s.getV x)
  case true =>
    have hgt : s.i.toNat + (s.getV x).toNat > 0xFFF := of_decide_eq_true ho
    exact ⟨_, exec_addIVx_overflow ho, s.advance.toNat_setI_i _, fun r => by simp [hgt], rfl, fun _ => rfl⟩
  case false =>
    have hle : ¬ s.i.toNat + (s.getV x).toNat > 0xFFF := of_decide_eq_false ho
    exact ⟨_, exec_addIVx_fits ho, s.advance.toNat_setI_i _, fun r => by simp [hle], rfl, fun _ => rfl⟩

/-- Settles O27: five times a byte is an address of the memory. -/
theorem ldFSetsTheGlyphAddress : Obligations.LdFSetsTheGlyphAddress := by
  refine ⟨decodesRow_ldFVx, fun x s => ?_⟩
  have hlt : glyphAddress (s.getV x) < 4096 := by
    have := (s.getV x).isLt
    simp only [glyphAddress]; omega
  exact ⟨_, rfl, s.advance.toNat_setI_i_of_lt hlt, s.advance_setI_eq _, keepsMemory_advance_setI s _⟩

/-! ### Stores -/

/-- The address of each byte of a data access, by the model's own definition (R33, R36). -/
theorem Machine.State.dataAddr_eq (s : State) (k : Nat) : s.dataAddr k = (s.i.toNat + k) % 4096 := rfl

theorem Machine.wrapAddress_of_lt {a : Nat} (h : a < 4096) : wrapAddress a = a := Nat.mod_eq_of_lt h

theorem Machine.toNat_digits (b : Byte) :
    (hundredsDigit b).toNat = b.toNat / 100 ∧ (tensDigit b).toNat = b.toNat / 10 % 10 ∧
    (onesDigit b).toNat = b.toNat % 10 := by
  have := b.isLt
  simp only [hundredsDigit, tensDigit, onesDigit, BitVec.toNat_ofNat]
  omega

/-- What memory reads as after the three stores of `FX33` (R103). -/
theorem Machine.exec_ldBVx_memRead {x : Reg} {s t : State} (h : s.Inv) (he : exec (.ldBVx x) s = .next t) (a : Nat) :
    t.memRead a =
      if wrapAddress a = s.dataAddr 2 then onesDigit (s.getV x)
      else if wrapAddress a = s.dataAddr 1 then tensDigit (s.getV x)
      else if wrapAddress a = s.dataAddr 0 then hundredsDigit (s.getV x)
      else s.memRead a := by
  cases he
  have h1 := h.advance.memWrite (s.dataAddr 0) (hundredsDigit (s.getV x))
  have h2 := h1.memWrite (s.dataAddr 1) (tensDigit (s.getV x))
  rw [State.memRead_memWrite h2.mem_wf, State.memRead_memWrite h1.mem_wf, State.memRead_memWrite h.advance.mem_wf]
  simp only [State.wrapAddress_dataAddr, State.advance_memRead]

/-- Settles O28: the three addresses are distinct, so each holds the digit stored to it. -/
theorem bcdStoresTheDecimalDigits : Obligations.BcdStoresTheDecimalDigits := by
  refine ⟨decodesRow_ldBVx, fun x s h => ⟨s.dataAddr_eq, ?_⟩⟩
  obtain ⟨t, he⟩ := exec_completes (.ldBVx x) s
  have read := exec_ldBVx_memRead h he
  have distinct : ∀ j k, j < 3 → k < 3 → j ≠ k → s.dataAddr j ≠ s.dataAddr k :=
    fun j k hj hk hjk haddr => hjk (State.dataAddr_inj (by omega) (by omega) haddr)
  obtain ⟨hundreds, tens, ones⟩ := toNat_digits (s.getV x)
  refine ⟨t, he, ?_, ?_, ?_, fun a ha hother => ?_, by cases he; rfl⟩
  · rw [read, State.wrapAddress_dataAddr, if_neg (distinct 0 2 (by decide) (by decide) (by decide)),
      if_neg (distinct 0 1 (by decide) (by decide) (by decide)), if_pos rfl, hundreds]
  · rw [read, State.wrapAddress_dataAddr, if_neg (distinct 1 2 (by decide) (by decide) (by decide)), if_pos rfl, tens]
  · rw [read, State.wrapAddress_dataAddr, if_pos rfl, ones]
  · rw [read, wrapAddress_of_lt ha, if_neg (hother 2 (by decide)), if_neg (hother 1 (by decide)),
      if_neg (hother 0 (by decide))]

theorem Machine.exec_ldMemVx_memRead {x r : Reg} {s t : State} (h : s.Inv) (he : exec (.ldMemVx x) s = .next t)
    (hr : r ≤ x) : t.memRead (s.dataAddr r.val) = s.getV r := by
  cases he
  exact foldl_storeReg_memRead (regsUpTo x) h.advance.mem_wf ((mem_regsUpTo x r).mpr hr)

/-- Settles O29, by what the loop of `FX55` stores and leaves. -/
theorem registerDumpStoresV0ToVx : Obligations.RegisterDumpStoresV0ToVx := by
  refine ⟨decodesRow_ldMemVx, fun x s h => ⟨s.dataAddr_eq, _, rfl, fun r hr => ?stored, fun a ha hother => ?kept, ?frame⟩⟩
  case stored => exact exec_ldMemVx_memRead h rfl hr
  case kept =>
    refine foldl_storeReg_memRead_other (regsUpTo x) h.advance.mem_wf fun r hr => ?_
    rw [wrapAddress_of_lt ha]
    exact hother r ((mem_regsUpTo x r).mp hr)
  case frame => rw [foldl_storeReg_frame]; rfl

/-! ### Loads -/

theorem Machine.exec_ldVxMem_getV {x : Reg} {s t : State} (he : exec (.ldVxMem x) s = .next t) (r : Reg) :
    t.getV r = if r ≤ x then s.memRead (s.dataAddr r.val) else s.getV r := by
  cases he
  simp only [foldl_loadReg_getV, mem_regsUpTo]; rfl

/-- Settles O30, by what the loop of `FX65` loads and leaves. -/
theorem registerLoadReadsV0ToVx : Obligations.RegisterLoadReadsV0ToVx := by
  refine ⟨decodesRow_ldVxMem, fun x s => ⟨_, rfl, fun r => exec_ldVxMem_getV rfl r, ?_⟩⟩
  rw [foldl_loadReg_frame]
  exact ⟨rfl, fun _ => rfl⟩

/-- Settles O31: the load reads each register from the byte that the dump stored it to. -/
theorem dumpThenLoadGivesTheRegistersBack : Obligations.DumpThenLoadGivesTheRegistersBack := by
  intro x s t u w h hdump hi hmem hload r hr
  have hti : t.i = s.i := (exec_frame hdump).index (by simp) (by simp) (by simp)
  have haddr : u.dataAddr r.val = s.dataAddr r.val := by simp only [State.dataAddr, hi, hti]
  rw [exec_ldVxMem_getV hload, if_pos hr, haddr, hmem, exec_ldMemVx_memRead h hdump hr]

end Sys2Proof
end

section
/-! PROOFS. Sprites (43_display.md). -/

namespace Sys2Proof

open Sys2Proof.Machine Sys2Proof.Claims

/-- `DXYN` toggles the sprite on the advanced state with `VF` reset (R111). -/
theorem Machine.exec_drw_toggled {x y : Reg} {n : Nat} {s t : State} (he : exec (.drw x y n) s = .next t) :
    Toggled (s.advance.setV vf 0) t (s.spriteBit (s.originX x) (s.originY y) n) := by
  cases he
  exact drawSprite_toggled _ _ _ _

/-- `VF` after `DXYN`: 1 when a pixel under the sprite was set, else 0 (R111). -/
theorem Machine.exec_drw_flag {x y : Reg} {n : Nat} {s t : State} (he : exec (.drw x y n) s = .next t) :
    (t.getV vf = 1 ↔ ∃ px py, s.spriteBit (s.originX x) (s.originY y) n px py = true ∧ s.getPixel px py = true) ∧
    (t.getV vf = 1 ∨ t.getV vf = 0) := by
  have h := exec_drw_toggled he
  have hreset : (s.advance.setV vf 0).getV vf = 0 := by simp
  refine ⟨h.flag.trans ?_, hreset ▸ h.flag_or⟩
  rw [hreset]
  simp

/-- Settles O33: the closed form of R111's loops, from the state with `VF` reset. -/
theorem drwTogglesTheSpriteAndReportsCollision : Obligations.DrwTogglesTheSpriteAndReportsCollision := by
  refine ⟨decodesRow_drw, fun x y n s => ?_⟩
  obtain ⟨t, he⟩ := exec_completes (.drw x y n) s
  have h := exec_drw_toggled he
  obtain ⟨hset, hflag⟩ := exec_drw_flag he
  refine ⟨t, he, h.pixel, hset.mpr, fun hclear => ?clear, fun r hr => ?others, ?frame, h.memRead⟩
  case clear =>
    refine hflag.resolve_left fun h1 => ?_
    obtain ⟨px, py, hbit, hpixel⟩ := hset.mp h1
    simp [hclear px py hbit] at hpixel
  case others => rw [h.reg r hr, State.getV_setV_of_ne _ _ hr, State.advance_getV]
  case frame => rw [h.frame]; rfl

/-- The sprite is read from `I` and memory, which `DXYN` keeps. -/
theorem Machine.spriteBit_of_drw {x y : Reg} {n : Nat} {s t : State} (he : exec (.drw x y n) s = .next t)
    (x0 y0 m : Nat) (px : Fin 64) (py : Fin 32) : t.spriteBit x0 y0 m px py = s.spriteBit x0 y0 m px py := by
  have h := exec_drw_toggled he
  simp only [State.spriteBit, h.memRead, h.dataAddr]; rfl

/-- Settles O34: the second draw toggles the same pixels back, and meets set the ones that the first met clear. -/
theorem drawingTwiceRestoresTheDisplay : Obligations.DrawingTwiceRestoresTheDisplay := by
  intro x y x' y' n s t w hfirst hx hy hsecond
  have first := (exec_drw_toggled hfirst).pixel
  have second := (exec_drw_toggled hsecond).pixel
  have flag := (exec_drw_flag hsecond).1
  simp only [hx, hy, spriteBit_of_drw hfirst] at second flag
  have before : ∀ px py, (s.advance.setV vf 0).getPixel px py = s.getPixel px py := fun _ _ => rfl
  have between : ∀ px py, (t.advance.setV vf 0).getPixel px py = t.getPixel px py := fun _ _ => rfl
  simp only [before] at first
  refine ⟨fun px py => ?restored, flag.trans ?collision⟩
  case restored => rw [second, between, first, Bool.xor_assoc, Bool.xor_self, Bool.xor_false]
  case collision =>
    refine exists_congr fun px => exists_congr fun py => and_congr_right fun hbit => ?_
    rw [first, hbit, Bool.xor_true, Bool.not_eq_true']

end Sys2Proof
end

section
/-! PROOFS. Keypad and timers (44_keypad_and_timers.md). -/

namespace Sys2Proof

open Sys2Proof.Machine Sys2Proof.Claims

theorem Machine.selectedKey_of_keyPressed {s : State} {x : Reg} (h : KeyPressed s x) : s.selectedKey x = true :=
  (s.selectedKey_iff x).mpr h

theorem Machine.selectedKey_of_not_keyPressed {s : State} {x : Reg} (h : ¬ KeyPressed s x) : s.selectedKey x = false :=
  Bool.eq_false_iff.mpr (mt (s.selectedKey_iff x).mp h)

/-- Settles O35: the condition of the two skips is that the key named by `VX` is pressed. -/
theorem keySkipsMovePcAlone : Obligations.KeySkipsMovePcAlone := by
  refine ⟨decodesRow_skp, decodesRow_sknp, fun x s => ?_⟩
  have skp : MovesPc (.skp x) s (if s.selectedKey x then 4 else 2) := movesPc_of_skipIf rfl
  have sknp : MovesPc (.sknp x) s (if !s.selectedKey x then 4 else 2) := movesPc_of_skipIf rfl
  refine ⟨fun h => ?pressed, fun h => ?released⟩
  case pressed => rw [selectedKey_of_keyPressed h] at skp sknp; exact ⟨skp, sknp⟩
  case released => rw [selectedKey_of_not_keyPressed h] at skp sknp; exact ⟨skp, sknp⟩

@[simp] theorem Machine.exec_ldDtVx (x : Reg) (s : State) :
    exec (.ldDtVx x) s = .next (s.advance.setDt (s.getV x)) := rfl

@[simp] theorem Machine.exec_ldStVx (x : Reg) (s : State) :
    exec (.ldStVx x) s = .next (s.advance.setSt (s.getV x)) := rfl

/-- Settles O36: the advance, and one byte from or to a timer. -/
theorem timerInstructionsMoveOneByte : Obligations.TimerInstructionsMoveOneByte := by
  refine ⟨decodesRow_ldVxDt, decodesRow_ldDtVx, decodesRow_ldStVx, fun x s =>
    ⟨writesRegs_of_exec_eq_setV rfl, ?dt, ?st⟩⟩
  case dt => rw [exec_ldDtVx, s.advance_eq]; rfl
  case st => rw [exec_ldStVx, s.advance_eq]; rfl

/-- Settles O37: the search finds no key, or the lowest one. -/
theorem keyWaitHoldsThenStoresTheLowestKey : Obligations.KeyWaitHoldsThenStoresTheLowestKey := by
  refine ⟨decodesRow_ldVxK, fun x s hnone => ?wait, fun x s k hk hlow => ?key⟩
  case wait => exact exec_ldVxK_wait x (s.lowestKey_eq_none_iff.mpr hnone)
  case key =>
    have he := exec_ldVxK_key x (State.lowestKey_eq_some hk hlow)
    obtain ⟨t, ht, regs, frame⟩ := writesRegs_of_exec_eq_setV he
    cases ht.symm.trans he
    exact ⟨_, he, regs, s.toNat_advance_pc, frame⟩

end Sys2Proof
end

section
/-! PROOFS. The canonical memory (20_memory.md section 1), reset and `load` (70_reset_and_hazards.md), ticks, keys and
read-outs (60_exceptions.md sections 4 and 5). -/

namespace Sys2Proof

open Sys2Proof.Machine Sys2Proof.Claims

/-! ### The canonical form -/

theorem Machine.Memory.read_cons_same (font : Vector Byte 80) (a : Nat) (x : Byte) (m : Memory) :
    Memory.read font ((a, x) :: m) a = x := if_pos rfl

theorem Machine.Memory.read_cons_of_ne (font : Vector Byte 80) {a b : Nat} (x : Byte) (m : Memory) (h : b ≠ a) :
    Memory.read font ((a, x) :: m) b = Memory.read font m b := if_neg h

/-- The parts of a canonical memory with a first entry. -/
theorem Machine.Memory.wf_cons {font : Vector Byte 80} {a : Nat} {x : Byte} {m : Memory}
    (h : Memory.wf font ((a, x) :: m)) :
    a < 4096 ∧ x ≠ initialByte font a ∧ (∀ c ∈ m, a < c.1) ∧ Memory.wf font m := by
  obtain ⟨rising, entries⟩ := h
  obtain ⟨above, rising⟩ := List.pairwise_cons.mp rising
  obtain ⟨first, entries⟩ := List.forall_mem_cons.mp entries
  exact ⟨first.1, first.2, above, rising, entries⟩

/-- Below its first entry a memory whose addresses rise reads as after `init`. -/
theorem Machine.Memory.read_of_lt {font : Vector Byte 80} {a : Nat} {m : Memory} (h : ∀ c ∈ m, a < c.1) :
    Memory.read font m a = initialByte font a :=
  Memory.read_of_forall_ne font fun c hc => Nat.ne_of_lt (h c hc)

/-- A memory that reads like a canonical one has an entry at or below the first one's address. -/
theorem Machine.Memory.not_all_above {font : Vector Byte 80} {a : Nat} {x : Byte} {m m' : Memory}
    (h : Memory.wf font ((a, x) :: m))
    (same : ∀ b, b < 4096 → Memory.read font ((a, x) :: m) b = Memory.read font m' b) : ¬ ∀ c ∈ m', a < c.1 := by
  obtain ⟨ha, hx, -, -⟩ := Memory.wf_cons h
  intro above
  exact hx (by rw [← Memory.read_of_lt above, ← same a ha, Memory.read_cons_same])

/-- Settles O53: two first entries are at one address and hold one byte, and the memories after them read alike. -/
theorem canonicalMemoriesThatReadAlikeAreEqual : Obligations.CanonicalMemoriesThatReadAlikeAreEqual := by
  intro font m m' h h' same
  induction m generalizing m' with
  | nil =>
    cases m' with
    | nil => rfl
    | cons d m' => exact absurd (by simp) (Memory.not_all_above h' fun b hb => (same b hb).symm)
  | cons c m ih =>
    obtain ⟨a, x⟩ := c
    cases m' with
    | nil => exact absurd (by simp) (Memory.not_all_above h same)
    | cons d m' =>
      obtain ⟨b, y⟩ := d
      obtain ⟨ha, -, above, hm⟩ := Memory.wf_cons h
      obtain ⟨hb, -, above', hm'⟩ := Memory.wf_cons h'
      have hba : ¬ a < b := fun hlt => Memory.not_all_above h same
        (List.forall_mem_cons.mpr ⟨hlt, fun e he => Nat.lt_trans hlt (above' e he)⟩)
      have hab : ¬ b < a := fun hlt => Memory.not_all_above h' (fun k hk => (same k hk).symm)
        (List.forall_mem_cons.mpr ⟨hlt, fun e he => Nat.lt_trans hlt (above e he)⟩)
      obtain rfl : a = b := by omega
      have hxy : x = y := by simpa only [Memory.read_cons_same] using same a ha
      have rest : ∀ k, k < 4096 → Memory.read font m k = Memory.read font m' k := fun k hk => by
        by_cases hka : k = a
        · rw [hka, Memory.read_of_lt above, Memory.read_of_lt above']
        · simpa only [Memory.read_cons_of_ne font _ _ hka] using same k hk
      rw [hxy, ih m' hm hm' rest]

/-! ### Load -/

/-- The cells below `k` of one memory, then the cells of another that has none below `k`. -/
theorem Machine.Memory.read_filter_append (font : Vector Byte 80) (m : Memory) {m' : Memory} {k : Nat}
    (h : ∀ c ∈ m', k ≤ c.1) (a : Nat) :
    Memory.read font (m.filter (fun c => c.1 < k) ++ m') a =
      if a < k then Memory.read font m a else Memory.read font m' a := by
  induction m with
  | nil =>
    split
    next ha => exact Memory.read_of_lt fun c hc => Nat.lt_of_lt_of_le ha (h c hc)
    next => rfl
  | cons c m ih =>
    obtain ⟨b, x⟩ := c
    by_cases hb : b < k <;> by_cases hab : a = b
    · simp [Memory.read, hab, hb]
    · simpa [Memory.read, hab, hb] using ih
    · simpa [hab, hb] using ih
    · simpa [Memory.read, hab, hb] using ih

theorem Machine.initialByte_of_ge (font : Vector Byte 80) {a : Nat} (h : 80 ≤ a) : initialByte font a = 0 :=
  dif_neg (Nat.not_lt.mpr h)

/-- What memory reads as after a program was placed (R161). -/
theorem Machine.State.placeProgram_memRead (s : State) (rom : List Byte) {a : Nat} (ha : a < 4096) :
    (s.placeProgram rom).memRead a = if a < 0x200 then s.memRead a else (rom[a - 0x200]?).getD 0 := by
  have above : ∀ c ∈ programCells s.config.font 0x200 rom, 0x200 ≤ c.1 :=
    fun c hc => (programCells_bounds s.config.font rom 0x200 c hc).1
  have read : (s.placeProgram rom).memRead a =
      if a < 0x200 then Memory.read s.config.font s.mem a
      else Memory.read s.config.font (programCells s.config.font 0x200 rom) a := by
    rw [State.memRead, wrapAddress_of_lt ha]
    exact Memory.read_filter_append s.config.font s.mem above a
  rw [read, State.memRead, wrapAddress_of_lt ha]
  by_cases hlow : a < 0x200
  · rw [if_pos hlow, if_pos hlow]
  · have hcell := read_programCells s.config.font rom 0x200 (a - 0x200)
    rw [Nat.add_sub_cancel' (Nat.not_lt.mp hlow), initialByte_of_ge _ (by omega)] at hcell
    rw [if_neg hlow, if_neg hlow, hcell]

/-- Settles O55: a program that fits is placed, one that does not changes nothing. -/
theorem loadPlacesTheProgram : Obligations.LoadPlacesTheProgram := by
  refine fun s rom => ⟨fun hlen => ?fits, fun hlen => ?tooLarge⟩
  case fits =>
    have hfit : programFits rom = true := decide_eq_true hlen
    have hload : s.load rom = s.placeProgram rom := if_pos hfit
    refine ⟨if_pos hfit, s.load rom, rfl, s.load_frame rom, fun a ha => ?_⟩
    rw [hload, s.placeProgram_memRead rom ha]
  case tooLarge =>
    have hfit : ¬ programFits rom = true := by simpa [programFits] using hlen
    have hload : s.load rom = s := if_neg hfit
    exact ⟨if_neg hfit, congrArg _ hload⟩

/-! ### Init -/

/-- The registers, keys, pixels and memory of the state after `init` (R25). -/
theorem Machine.initialise_reads (s : State) :
    (∀ r, s.initialise.getV r = 0) ∧ (∀ k, s.initialise.getKey k = false) ∧
    (∀ px py, s.initialise.getPixel px py = false) ∧
    ∀ a, s.initialise.memRead a = initialByte s.config.font (wrapAddress a) := by
  refine ⟨fun r => ?_, fun k => ?_, fun px py => ?_, fun a => rfl⟩
  · simp [State.getV, State.initialise, State.init]
  · simp [State.getKey, State.initialise, State.init]
  · simp [State.getPixel, State.initialise, State.init]

/-- Settles O54: the reset values field by field, and the font below the zeros. -/
theorem initGivesTheResetValues : Obligations.InitGivesTheResetValues := by
  refine ⟨fun s => ?init, rfl, rfl, rfl, rfl, rfl, by decide, by decide⟩
  obtain ⟨regs, keys, pixels, mem⟩ := initialise_reads s
  refine ⟨s.initialise, rfl, regs, rfl, rfl, rfl, rfl, rfl, keys, pixels, rfl, fun a => ?font, fun a hlow ha => ?zero, rfl⟩
  case font => rw [mem, wrapAddress_of_lt (by omega)]; exact dif_pos a.isLt
  case zero => rw [mem, wrapAddress_of_lt ha, initialByte_of_ge _ hlow]

/-! ### Ticks, keys and read-outs -/

theorem Machine.toNat_tickDown (b : Byte) : (tickDown b).toNat = b.toNat - 1 := by
  unfold tickDown
  split
  next h => simp [h]
  next h =>
    have hpos : b.toNat ≠ 0 := fun h0 => h (BitVec.eq_of_toNat_eq h0)
    have hlt := b.isLt
    have hone : (1 : Byte).toNat = 1 := rfl
    rw [BitVec.toNat_sub, hone]
    omega

/-- Settles O56, by induction on the number of ticks. -/
theorem ticksCountBothTimersDown : Obligations.TicksCountBothTimersDown := by
  intro n
  induction n with
  | zero => exact fun s => ⟨s, rfl, rfl, rfl, rfl⟩
  | succ n ih =>
    intro s
    obtain ⟨t, hrun, hdt, hst, frame⟩ := ih s.tickTimers
    have ht : t.dt.toNat = s.dt.toNat - 1 - n := by rw [hdt, State.tickTimers_dt, toNat_tickDown]
    have hs : t.st.toNat = s.st.toNat - 1 - n := by rw [hst, State.tickTimers_st, toNat_tickDown]
    exact ⟨t, hrun, by omega, by omega, frame⟩

/-- Settles O57: the write of one key flag, and the two read-outs by their definitions. -/
theorem keySetAndReadoutsDoAsListed : Obligations.KeySetAndReadoutsDoAsListed := by
  refine fun s => ⟨fun k pressed => ⟨s.setKey k pressed, rfl, fun j => s.getKey_setKey k j pressed, rfl⟩, rfl,
    ⟨s.fb, rfl, fun _ _ => rfl⟩, rfl, ?sound⟩
  case sound => simp [hostReply, State.readSound, bne, beq_eq_decide]

end Sys2Proof
end
